-- ==== Sys2Proof/Word.lean ====
section
/-! DEFINITION. The widths the spec gives the block: bytes, 16-bit and 32-bit registers, 7-bit bus addresses. -/

namespace Sys2Proof

/-- One byte: a device register, a transferred byte, a buffer entry (R70, R40, R41). -/
abbrev Byte := BitVec 8

/-- A 16-bit register: `COUNT`, `temp16`, `acc16` (R28, R30, R31). -/
abbrev Half := BitVec 16

/-- A 32-bit host register or command word (R22, R100). -/
abbrev Word := BitVec 32

/-- A 7-bit two-wire device address (R77). -/
abbrev Addr := BitVec 7

end Sys2Proof
end

