-- ==== Sys2Proof/Syntax.lean ====
section
/-! DEFINITION. The block's commands: one constructor per row of spec/opcode_table.json (R102, R104), and the two command registers. -/

namespace Sys2Proof

/-- The block's instruction set is its eight host commands (R2). `reg` is REG, `len` is LEN (R100, R101); a command
that ignores those fields has no operand (R107). -/
inductive Instr where
  /-- READ_REG (R160). -/
  | readReg (reg : Byte) (len : Half)
  /-- WRITE_REG (R170); the payload is read from S_TXBUF, not from the word (R100). -/
  | writeReg (reg : Byte) (len : Half)
  /-- RESOLVE_ADDR (R180). -/
  | resolveAddr
  /-- INIT (R185). -/
  | init
  /-- READ_TEMP (R189). -/
  | readTemp
  /-- AWAIT_DRDY (R193). -/
  | awaitDrdy
  /-- READ_MOTION (R197). -/
  | readMotion
  /-- START_LED (R121). -/
  | startLed
  deriving DecidableEq, Repr

/-- The two registers a command word is written to (R100). The same word means different commands at the two. -/
inductive Port where
  /-- S_CMD, format S. -/
  | sCmd
  /-- L_CMD, format L. -/
  | lCmd
  deriving DecidableEq, Repr

/-- Why a decoder reads no command. -/
inductive DecodeError where
  /-- OP 0x00 or 0x08 to 0xFF written to S_CMD (R106). -/
  | illegalSensorOpcode (op : Byte)
  /-- OP other than 0x01 written to L_CMD (R106). -/
  | illegalLedOpcode (op : Byte)
  /-- Not the four byte lanes of one 32-bit word (R71, R100). -/
  | notOneWord (count : Nat)
  deriving DecidableEq, Repr

end Sys2Proof
end

