-- ==== Sys2Proof/Decode.lean ====
section
/-! DEFINITION. Decoding a command word, total (R108), and the encoder written from the same formats (R100, R102, R104). -/

namespace Sys2Proof

/-- Byte lane k of a word carries bits [8k+7:8k] (R71). -/
def byteLane (w : Word) (k : Nat) : Byte := w.extractLsb' (8 * k) 8

/-- The four byte lanes of a word, lowest offset first (R71). -/
def wordLanes (w : Word) : List Byte := [byteLane w 0, byteLane w 1, byteLane w 2, byteLane w 3]

/-- The field OP, bits [7:0] (R100). -/
def opField (w : Word) : Byte := w.extractLsb' 0 8

/-- The field REG, bits [15:8], unsigned (R100, R101). -/
def regField (w : Word) : Byte := w.extractLsb' 8 8

/-- The field LEN, bits [31:16], unsigned (R100, R101). -/
def lenField (w : Word) : Half := w.extractLsb' 16 16

/-- The sensor opcode map (R102, R106). -/
def decodeSensor (w : Word) : Except DecodeError Instr :=
  match (opField w).toNat with
  | 0x01 => .ok (.readReg (regField w) (lenField w))
  | 0x02 => .ok (.writeReg (regField w) (lenField w))
  | 0x03 => .ok .resolveAddr
  | 0x04 => .ok .init
  | 0x05 => .ok .readTemp
  | 0x06 => .ok .awaitDrdy
  | 0x07 => .ok .readMotion
  | _ => .error (.illegalSensorOpcode (opField w))

/-- The LED opcode map (R104, R106). -/
def decodeLed (w : Word) : Except DecodeError Instr :=
  match (opField w).toNat with
  | 0x01 => .ok .startLed
  | _ => .error (.illegalLedOpcode (opField w))

/-- The meaning of a word by the register it is written to (R108). -/
def decode : Port → Word → Except DecodeError Instr
  | .sCmd, w => decodeSensor w
  | .lCmd, w => decodeLed w

/-- Decoding the bytes of a command word as the byte lanes hold it (R71); no command has a second word (R100). -/
def decodeBytes (p : Port) : List Byte → Except DecodeError Instr
  | [b0, b1, b2, b3] => decode p (b3 ++ b2 ++ b1 ++ b0)
  | bytes => .error (.notOneWord bytes.length)

/-- The offset of a command register in the window (R22). -/
def Port.offset : Port → Nat
  | .sCmd => 0x000
  | .lCmd => 0x020

/-- The command register at an offset of the window, if one is there (R22). -/
def portAt (offset : Nat) : Option Port :=
  match offset with
  | 0x000 => some .sCmd
  | 0x020 => some .lCmd
  | _ => none

/-- A format S word from its fields (R100). -/
def formatS (len : Half) (reg op : Byte) : Word := len ++ reg ++ op

/-- The register a command is written to and its word, ignored fields 0 (R102, R104, R110). -/
def encode : Instr → Port × Word
  | .readReg reg len => (.sCmd, formatS len reg 0x01)
  | .writeReg reg len => (.sCmd, formatS len reg 0x02)
  | .resolveAddr => (.sCmd, formatS 0 0 0x03)
  | .init => (.sCmd, formatS 0 0 0x04)
  | .readTemp => (.sCmd, formatS 0 0 0x05)
  | .awaitDrdy => (.sCmd, formatS 0 0 0x06)
  | .readMotion => (.sCmd, formatS 0 0 0x07)
  | .startLed => (.lCmd, 0x00000001)

/-- The offset part of a host-numbered command: what stands above the 32 bits of the word. -/
def tableOffset (nbits w : Nat) : Nat := (w % 2 ^ nbits) / 2 ^ 32

/-- The word part of a host-numbered command: its low 32 bits. -/
def tableWord (nbits w : Nat) : Word := BitVec.ofNat 32 (w % 2 ^ nbits)

/-- The command read from an opcode-table row's bits. A word does not say which register it is written to, and
0x01 is READ_REG at S_CMD and START_LED at L_CMD; the register's offset is taken from the bits above the word, so a
row of at most 32 bits is a write to S_CMD, offset 0x000. DESIGN CHOICE (log entry 1). -/
def decodeTableWord (nbits w : Nat) : Option Instr :=
  match portAt (tableOffset nbits w) with
  | some p => (decodeBytes p (wordLanes (tableWord nbits w))).toOption
  | none => none

end Sys2Proof
end

