-- ==== Sys2Proof/Config.lean ====
section
/-! DEFINITION. The implementation parameters of R8, fixed for a whole run, with the values R8 fixes and R9's constraints. -/

namespace Sys2Proof

/-- The parameters of R8, each an argument of the configuration, with the value R8 gives it where it gives one.
Register numbers are 8 bits and candidate addresses 7 bits wide, so R9's ranges for them hold by type. -/
structure Config where
  /-- MAX_PATTERN, the pattern counter's modulus (source default 10). -/
  maxPattern : Nat := 10
  /-- BASE_DELAY, ticks per half-cycle at pattern 0 (source default 10,000,000). -/
  baseDelay : Nat := 10000000
  /-- STAGING_SIZE, bytes of the write staging buffer (source: 256). -/
  stagingSize : Nat := 256
  /-- MAX_WRITE_PAYLOAD, the largest WRITE_REG payload (source: 255). -/
  maxWritePayload : Nat := 255
  /-- RX_SIZE, bytes of the receive buffer and largest READ_REG length (decided: 256, D12). -/
  rxSize : Nat := 256
  /-- DEBOUNCE_WIDTH, the debounce counter's width in bits (decided: 32, D26). -/
  debounceWidth : Nat := 32
  /-- ADDR_HIGH, the first candidate address (OPEN). -/
  addrHigh : Addr
  /-- ADDR_LOW, the second candidate address (OPEN). -/
  addrLow : Addr
  /-- REG_WHO_AM_I (OPEN). -/
  regWhoAmI : Byte
  /-- WHO_AM_I_VALUE (OPEN). -/
  whoAmIValue : Byte
  /-- REG_STATUS (OPEN). -/
  regStatus : Byte
  /-- DRDY_BIT, the bit of REG_STATUS tested for data-ready (source: "testing bit 0"). -/
  drdyBit : Nat := 0
  /-- REG_TEMP (OPEN). -/
  regTemp : Byte
  /-- REG_X_L (OPEN). -/
  regXL : Byte
  /-- REG_X_H (OPEN). -/
  regXH : Byte
  /-- REG_Y_L (OPEN). -/
  regYL : Byte
  /-- REG_Y_H (OPEN). -/
  regYH : Byte
  /-- REG_Z_L (OPEN). -/
  regZL : Byte
  /-- REG_Z_H (OPEN). -/
  regZH : Byte
  /-- INIT_WRITES, the (register, byte) writes of INIT in order (OPEN, R186). -/
  initWrites : List (Byte × Byte)
  /-- TEMP_BIAS, the temperature at raw value 0 (source: 25). -/
  tempBias : Int := 25
  /-- POLL_LIMIT: `none` is "unbounded", the default (R194). -/
  pollLimit : Option Nat := none
  /-- The strap BUS_AVAILABLE (OPEN, R42). -/
  busAvailable : Bool
  /-- The strap IRQ_AVAILABLE (OPEN, R42). -/
  irqAvailable : Bool
  /-- BASE_ADDR, the host address of the register window (OPEN). -/
  baseAddr : Nat
  deriving DecidableEq, Repr

/-- R9 on POLL_LIMIT: unbounded, or an integer in [1, 2^32 - 1]. -/
def pollLimitInRange : Option Nat → Bool
  | none => true
  | some l => decide (1 ≤ l) && decide (l ≤ 2 ^ 32 - 1)

/-- The parameters to which R8's table gives one value, fixed by the source or decided, have that value. Holding a
configuration to it is DEDUCED (log entry 8), safe. -/
def Config.fixedAsStated (c : Config) : Bool :=
  decide (c.stagingSize = 256) && decide (c.maxWritePayload = 255) && decide (c.rxSize = 256) &&
    decide (c.debounceWidth = 32) && decide (c.drdyBit = 0) && decide (c.tempBias = 25)

/-- The constraints of R9, and R8's fixed values. A configuration outside them is given no meaning (R9, U21):
`Machine.step` refuses it. -/
def Config.inRange (c : Config) : Bool :=
  decide (1 ≤ c.maxPattern) && decide (1 ≤ c.baseDelay) &&
    decide (c.baseDelay * c.maxPattern ≤ 2 ^ 32 - 1) && pollLimitInRange c.pollLimit && c.fixedAsStated

/-- The source's defaults, and R8's suggested values for the OPEN parameters.
PRESUMED (log entry 2), unsafe: the suggestions are the spec's general knowledge and not normative. Only
`State.reset` uses this configuration; every claim ranges over all configurations. -/
def Config.suggested : Config where
  addrHigh := 0x1E
  addrLow := 0x1D
  regWhoAmI := 0x0F
  whoAmIValue := 0x43
  regStatus := 0x27
  regTemp := 0x26
  regXL := 0x28
  regXH := 0x29
  regYL := 0x2A
  regYH := 0x2B
  regZL := 0x2C
  regZH := 0x2D
  initWrites := [(0x21, 0x00), (0x20, 0x60), (0x23, 0x01)]
  busAvailable := true
  irqAvailable := true
  baseAddr := 0

end Sys2Proof
end

