-- ==== Sys2Proof/Machine/State.lean ====
section
/-! DEFINITION. The state of the block and of the agents that act on it, as plain data, and its value after reset. -/

namespace Sys2Proof.Machine

/-- The result codes of RESULT and LRESULT (R220). Codes 9 to 15 never occur, so they have no constructor. -/
inductive ResultCode where
  /-- 0: no command has completed since reset. -/
  | none
  /-- 1: completed with no anomaly. -/
  | ok
  /-- 2: some bus transaction was short. -/
  | short
  /-- 3: LEN out of range. -/
  | arg
  /-- 4: not legal in the engine's state. -/
  | seq
  /-- 5: the opcode spells no command. -/
  | illegal
  /-- 6: POLL_LIMIT polls without data-ready. -/
  | timeout
  /-- 7: no candidate identity matched. -/
  | nodev
  /-- 8: the engine's setup strap is false. -/
  | fatal
  deriving DecidableEq, Repr

/-- A byte buffer as address and byte pairs in one canonical form (`Memory.wf` in Machine/Ops.lean). -/
abbrev Memory := List Host.Cell

/-- One value for each axis (R31). -/
structure Axes (α : Type) where
  x : α
  y : α
  z : α
  deriving DecidableEq, Repr

/-- The three axes in the order READ_MOTION reads them (R198). -/
inductive Axis where
  | x | y | z
  deriving DecidableEq, Repr

/-- A point inside a register read (`reg_read`, R158), with its locals. -/
inductive ReadPt where
  /-- Before SENSOR step 1. -/
  | start
  /-- After the held BusWrite answered `sent`. -/
  | held (sent : Nat)
  /-- After the BusRead answered `received`. -/
  | got (sent received : Nat)
  deriving DecidableEq, Repr

/-- A point inside WRITE_REG's one transaction (R170). -/
inductive WritePt where
  /-- Before the released BusWrite. -/
  | start
  /-- After it answered `sent`. -/
  | done (sent : Nat)
  deriving DecidableEq, Repr

/-- A point inside `resolve` (R180): which candidate is being read, and where. -/
inductive ResolvePt where
  | high (p : ReadPt)
  | low (p : ReadPt)
  deriving DecidableEq, Repr

/-- A point inside INIT (R185). -/
inductive InitPt where
  /-- Before INIT has looked at RESOLVED. -/
  | start
  /-- Inside the resolution INIT runs itself. -/
  | resolving (p : ResolvePt)
  /-- After a configuration write answered `sent`, with the locals `ran_resolve`, `a`, `nf` and the writes still to do. -/
  | wrote (ranResolve : Bool) (a : Addr) (nf : Bool) (rest : List (Byte × Byte)) (sent : Nat)
  deriving DecidableEq, Repr

/-- A point inside READ_MOTION (R197), with the locals `okL`, `lo` and `new`. -/
inductive MotionPt where
  /-- Inside `await`. -/
  | await (p : ReadPt)
  /-- Inside the read of an axis's low byte. -/
  | low (axis : Axis) (new : Axes (Option Half)) (p : ReadPt)
  /-- Inside the read of an axis's high byte. -/
  | high (axis : Axis) (okL : Bool) (lo : Byte) (new : Axes (Option Half)) (p : ReadPt)
  deriving DecidableEq, Repr

/-- `RUN(op, point, locals)` (R21): the constructor is the latched command, its arguments the operands and the point. -/
inductive Running where
  | readReg (reg : Byte) (len : Half) (p : ReadPt)
  | writeReg (reg : Byte) (len : Half) (p : WritePt)
  | resolveAddr (p : ResolvePt)
  | init (p : InitPt)
  | readTemp (p : ReadPt)
  | awaitDrdy (p : ReadPt)
  | readMotion (p : MotionPt)
  deriving DecidableEq, Repr

/-- The SENSOR engine's control state `s_ctl` (R21, R32). -/
inductive Ctl where
  | idle
  | run (r : Running)
  deriving DecidableEq, Repr

/-- One event of the bus history (R153). -/
inductive BusEvent where
  /-- `BW(a7, bytes, release, sent)`. -/
  | bw (a7 : Addr) (bytes : List Byte) (release : Bool) (sent : Nat)
  /-- `BR(a7, n, received, data)`. -/
  | br (a7 : Addr) (n received : Nat) (data : List Byte)
  deriving DecidableEq, Repr

/-- The kinds of diagnostic event (R233). -/
inductive DiagKind where
  | pattern | fatalIrq | fatalBus
  deriving DecidableEq, Repr

/-- One event `Diag(kind, value)` on the diagnostic port (R12, R233). -/
structure DiagEvent where
  kind : DiagKind
  value : Word
  deriving DecidableEq, Repr

/-- The sensor engine's registers, buffers and internal state (R23 to R32, R40, R41) and its bus history (R153).
BUSY is not stored: it is 1 exactly while `ctl` runs (R24). FATAL is not stored: it reflects a strap (R27). -/
structure Sensor where
  /-- S_STATUS.OVR (R25). -/
  ovr : Bool
  /-- S_STATUS.RESOLVED (R26). -/
  resolved : Bool
  /-- S_STATUS.INITIALIZED (R26). -/
  initialized : Bool
  /-- S_STATUS.DEV_NOT_FOUND (R26). -/
  devNotFound : Bool
  /-- S_STATUS.RESULT (R23, R220). -/
  result : ResultCode
  /-- S_COUNT.COUNT (R28). -/
  count : Half
  /-- S_ADDR.ADDR (R29). -/
  addr : Addr
  /-- temp16, signed (R30). -/
  temp16 : Half
  /-- acc16[axis], signed (R31). -/
  acc16 : Axes Half
  /-- s_ctl (R21, R32). -/
  ctl : Ctl
  /-- short_latch (R32). -/
  shortLatch : Bool
  /-- poll_n (R32). -/
  pollN : Word
  /-- last_count: none, or an integer in [0, 256] (R32). -/
  lastCount : Option Nat
  /-- fatal_reported (R32). -/
  fatalReported : Bool
  /-- S_TXBUF[0..255], by index (R40). -/
  txbuf : Memory
  /-- S_RXBUF[0..255], by index (R41). -/
  rxbuf : Memory
  /-- staging[0..255], by index (R32). -/
  staging : Memory
  /-- The bus history, oldest event first (R153). -/
  busHistory : List BusEvent
  deriving DecidableEq, Repr

/-- L_STATUS.STATE (R33, R120): 0, 1 and 2. State 3 never occurs, so it has no constructor. -/
inductive LedState where
  | idle | running | fatal
  deriving DecidableEq, Repr

/-- The LED engine's registers and internal state (R33 to R39). -/
structure Led where
  /-- L_STATUS.STATE. -/
  state : LedState
  /-- L_STATUS.LED_A, which drives the LED-A pin (R34). -/
  ledA : Bool
  /-- L_STATUS.LED_B, which drives the LED-B pin (R34). -/
  ledB : Bool
  /-- L_STATUS.PHASE. -/
  phase : Bool
  /-- btn_q (R39). -/
  btnQ : Bool
  /-- L_STATUS.LRESULT. -/
  lresult : ResultCode
  /-- The pattern counter (R35). -/
  pattern : Word
  /-- The debounce counter (R36). -/
  debounce : Word
  /-- The latched blink period (R37). -/
  period : Word
  /-- The ticks left in this half-cycle (R38). -/
  ticks : Word
  deriving DecidableEq, Repr

/-- Faults. The block has no trap (R227): a host access error is the fault of the host program, answered with an error
response and recorded in `State.hostErrors`, and the machine goes on (R229). No step ends in one. -/
inductive Fault where
  /-- `HostAccessError(offset, size)`: recorded by a host access that R72 refuses. Safe: nothing else changes. -/
  | hostAccessError (offset : Int) (size : Nat)
  deriving DecidableEq, Repr

/-- Refusals: what the model gives no meaning. -/
inductive Refusal where
  /-- An instruction without a meaning, raised by exec's arm alone. No arm raises it now. Safe. -/
  | notModelled (mnemonic : String)
  /-- Raised by `step` in a configuration outside R9's constraints (R9, U21). Safe. -/
  | configurationOutOfRange
  deriving DecidableEq, Repr

/-- One access of the host's program (R12, R109). `addr` is a host address, `size` a byte count. -/
inductive HostOp where
  /-- `MemWrite(addr, size, v)`. -/
  | memWrite (addr size : Nat) (v : Word)
  /-- `name <- MemRead(addr, size)`. -/
  | memRead (addr size : Nat) (name : String)
  /-- WAITIDLE: read S_STATUS until BUSY is 0. -/
  | waitIdle
  deriving DecidableEq, Repr

/-- One value the host has read, under the name its program gives it (R109). -/
structure HostRead where
  name : String
  value : Word
  deriving DecidableEq, Repr

/-- The BUS agent's answer to one transaction (R151): `sent` if it is a write, `data` if it is a read. -/
structure BusDraw where
  sent : Nat
  data : List Byte
  deriving DecidableEq, Repr

/-- One agent's step with the values the environment draws for it (R15, R84). -/
inductive AgentStep where
  /-- HOST performs its next access; `rxDraw` is what S_RXBUF reads as if it is read while BUSY (R76). -/
  | host (rxDraw : Byte)
  /-- SENSOR takes a step; `answer` answers the step's transaction, if it performs one (R150). -/
  | sensor (answer : BusDraw)
  /-- BTN samples the button line (R124). -/
  | btn (level : Bool)
  /-- BLINK takes a tick (R131). -/
  | blink
  /-- The block is reset (R250); the bytes of the three buffers after it are drawn (R50, U11). -/
  | reset (tx rx staging : List Byte)
  deriving DecidableEq, Repr

/-- The whole state: the block (`config`, `sensor`, `led`), what it has put out (`diag`, `hostErrors`), and the agents'
side as data: what HOST has read and has still to do, and which agents step next, oldest first. -/
structure State where
  config : Config
  sensor : Sensor
  led : Led
  /-- The diagnostic output port's events, oldest first (R233). -/
  diag : List DiagEvent
  /-- The recorded HostAccessErrors, oldest first (R229). -/
  hostErrors : List Fault
  /-- The values the host has read, oldest first. -/
  reads : List HostRead
  /-- HOST's remaining accesses. -/
  program : List HostOp
  /-- The agents' steps to come (R84). -/
  schedule : List AgentStep
  deriving DecidableEq, Repr

/-- The sensor engine after reset (R50), with the unspecified contents of its buffers and the history kept so far. -/
def Sensor.afterReset (tx rx staging : Memory) (history : List BusEvent) : Sensor where
  ovr := false
  resolved := false
  initialized := false
  devNotFound := false
  result := .none
  count := 0
  addr := 0
  temp16 := 0
  acc16 := { x := 0, y := 0, z := 0 }
  ctl := .idle
  shortLatch := false
  pollN := 0
  lastCount := none
  fatalReported := false
  txbuf := tx
  rxbuf := rx
  staging := staging
  busHistory := history

/-- The LED engine after reset (R50). -/
def Led.afterReset : Led where
  state := .idle
  ledA := false
  ledB := false
  phase := false
  btnQ := true
  lresult := .none
  pattern := 0
  debounce := 0
  period := 0
  ticks := 0

/-- The machine right after reset (R50, R251): no event, no access, no agent scheduled.
The configuration is PRESUMED (log entry 2) and the buffers' contents a DESIGN CHOICE (log entry 3), both unsafe. -/
def State.reset : State where
  config := Config.suggested
  sensor := Sensor.afterReset [] [] [] []
  led := Led.afterReset
  diag := []
  hostErrors := []
  reads := []
  program := []
  schedule := []

end Sys2Proof.Machine
end

