-- ==== Sys2Proof/Machine/Ops.lean ====
section
/-! DEFINITION. The shared operations: buffers, bus primitives, register access, the command lifecycle, diagnostics, reset. -/

namespace Sys2Proof.Machine

/-! ## Byte buffers -/

/-- What a buffer entry that no pair lists reads as. The spec leaves a buffer's reset contents unspecified (R50);
0 is a DESIGN CHOICE (log entry 3), unsafe. -/
def Memory.blank : Byte := 0

/-- The canonical form: indexes strictly rising, and no pair holding what an unlisted index reads as. -/
abbrev Memory.wf (m : Memory) : Prop :=
  m.Pairwise (fun a b => a.1 < b.1) ∧ ∀ c ∈ m, c.2 ≠ Memory.blank

/-- Every listed index is below `n`: 256 for each of the block's buffers (R32, R40, R41). -/
abbrev Memory.below (n : Nat) (m : Memory) : Prop := ∀ c ∈ m, c.1 < n

/-- The byte at an index. -/
def Memory.read : Memory → Nat → Byte
  | [], _ => Memory.blank
  | (a, b) :: m, i => if a = i then b else Memory.read m i

/-- Put a byte in front of the pairs above it, unless it is what an unlisted index reads as. -/
def Memory.cons (i : Nat) (v : Byte) (m : Memory) : Memory :=
  if v = Memory.blank then m else (i, v) :: m

/-- Store one byte, keeping the canonical form. -/
def Memory.write : Memory → Nat → Byte → Memory
  | [], i, v => Memory.cons i v []
  | (a, b) :: m, i, v =>
    if i < a then Memory.cons i v ((a, b) :: m)
    else if i = a then Memory.cons i v m
    else (a, b) :: Memory.write m i v

/-- Store a list of bytes at rising indexes from `k` on. -/
def Memory.writeBytes (m : Memory) (k : Nat) : List Byte → Memory
  | [] => m
  | b :: bs => Memory.writeBytes (m.write k b) (k + 1) bs

/-- The bytes at indexes `0..n-1`. -/
def Memory.readBytes (m : Memory) (n : Nat) : List Byte := (List.range n).map m.read

/-- A buffer of `size` entries, each drawn: entry `i` holds draw `i`, further draws are ignored. -/
def Memory.drawn (size : Nat) (bytes : List Byte) : Memory := Memory.writeBytes [] 0 (bytes.take size)

/-! ## Bus primitives -/

/-- `BusWrite(a7, bytes, release)` (R150, R151, R153): the count sent and the engine after it. The answer is at most the
bytes there are: a larger draw stands for all of them: DEDUCED (log entry 4), safe. -/
def busWrite (a7 : Addr) (bytes : List Byte) (release : Bool) (d : BusDraw) (e : Sensor) : Nat × Sensor :=
  let sent := min d.sent bytes.length
  (sent, { e with busHistory := e.busHistory ++ [.bw a7 bytes release sent] })

/-- `BusRead(a7, n)` (R150, R151, R153): the count received and the engine after it, the bytes placed in S_RXBUF from
entry 0 on (R152). At most `n` bytes are received: further drawn bytes are ignored: DEDUCED (log entry 4), safe. -/
def busRead (a7 : Addr) (n : Nat) (d : BusDraw) (e : Sensor) : Nat × Sensor :=
  let data := d.data.take n
  (data.length,
    { e with
      rxbuf := Memory.writeBytes e.rxbuf 0 data
      busHistory := e.busHistory ++ [.br a7 n data.length data] })

/-! ## Register access (R158) -/

/-- `reg_read` up to its held write: SENSOR step 1. `at'` places a point of the read in its command. -/
def regReadStart (a : Addr) (r : Byte) (at' : ReadPt → Running) (d : BusDraw) (e : Sensor) : Sensor :=
  let (sent, e) := busWrite a [r] false d e
  { e with ctl := .run (at' (.held sent)) }

/-- `reg_read` from its held write to its read: SENSOR step 2, taken whatever the held write sent. -/
def regReadHeld (a : Addr) (n sent : Nat) (at' : ReadPt → Running) (d : BusDraw) (e : Sensor) : Sensor :=
  let (received, e) := busRead a n d e
  { e with ctl := .run (at' (.got sent received)) }

/-- The `ok` of a register read of `n` bytes. -/
def readOk (n sent received : Nat) : Bool := decide (sent = 1) && decide (received = n)

/-- The `ok` of a register write of `len` payload bytes. -/
def writeOk (len sent : Nat) : Bool := decide (sent = 1 + len)

/-- What a register access leaves in `last_count` and `short_latch` once its last primitive has answered. -/
def noteAccess (count : Nat) (ok : Bool) (e : Sensor) : Sensor :=
  { e with lastCount := some count, shortLatch := e.shortLatch || !ok }

/-- S_RXBUF[0], the byte a one-byte register read has received. -/
def rx0 (e : Sensor) : Byte := e.rxbuf.read 0

/-- Fill the staging buffer with a register number and payload (R158, R155). -/
def stage (reg : Byte) (payload : List Byte) (e : Sensor) : Sensor :=
  { e with staging := Memory.writeBytes e.staging 0 (reg :: payload) }

/-! ## Command lifecycle -/

/-- BUSY is 1 exactly while `s_ctl` runs (R24). -/
def Sensor.busy (e : Sensor) : Bool :=
  match e.ctl with
  | .idle => false
  | .run _ => true

/-- `s_ctl <- RUN(...)` (R155). -/
def beginRun (r : Running) (e : Sensor) : Sensor := { e with ctl := .run r }

/-- The complete step's commit, beside what the command itself commits (R157). -/
def complete (code : ResultCode) (e : Sensor) : Sensor :=
  { e with
    count := match e.lastCount with
      | some c => BitVec.ofNat 16 c
      | none => e.count
    result := code
    ctl := .idle }

/-- Append one event to the diagnostic port (R12, R233). -/
def diagnose (kind : DiagKind) (value : Word) (s : State) : State :=
  { s with diag := s.diag ++ [{ kind := kind, value := value }] }

/-- A rejected sensor command (R155, R221): RESULT, and the once-only FATAL_BUS report (R224). The block's one shared
way to report an error: it has no trap to take (R227) and none to return from (R228). -/
def rejectSensor (code : ResultCode) (s : State) : State :=
  let s := { s with sensor := { s.sensor with result := code } }
  if code = .fatal ∧ s.sensor.fatalReported = false then
    diagnose .fatalBus 0 { s with sensor := { s.sensor with fatalReported := true } }
  else s

/-- A write to S_CMD (R155): dropped with OVR while BUSY, else rejected with `code` or accepted. `start` latches the
accepted command. -/
def issueSensor (code : Option ResultCode) (start : Sensor → Sensor) (s : State) : State :=
  if s.sensor.busy then { s with sensor := { s.sensor with ovr := true } }
  else
    let s := { s with sensor := { s.sensor with ovr := false } }
    match code with
    | some c => rejectSensor c s
    | none =>
      { s with sensor := start { s.sensor with shortLatch := false, pollN := 0, lastCount := none } }

/-! ## Reset -/

/-- Reset (R250, R252, R253): every element of the block takes its value of R50, the buffers drawn bytes. A running
command ends without a complete step. The straps and parameters stay, the histories keep what happened before, and the
agents' own data are not the block's to reset. -/
def resetBlock (tx rx staging : List Byte) (s : State) : State :=
  { s with
    sensor :=
      Sensor.afterReset (Memory.drawn 256 tx) (Memory.drawn s.config.rxSize rx)
        (Memory.drawn s.config.stagingSize staging) s.sensor.busHistory
    led := Led.afterReset }

end Sys2Proof.Machine
end

