-- ==== Sys2Proof/Machine/Flags.lean ====
section
/-! DEFINITION. The status words, the result codes and the rules that choose one code (R23, R33, R220 to R223). -/

namespace Sys2Proof.Machine

/-- The 4-bit value of a result code (R220). -/
def ResultCode.bits : ResultCode → BitVec 4
  | .none => 0
  | .ok => 1
  | .short => 2
  | .arg => 3
  | .seq => 4
  | .illegal => 5
  | .timeout => 6
  | .nodev => 7
  | .fatal => 8

/-- The 2-bit value of L_STATUS.STATE (R33). -/
def LedState.bits : LedState → BitVec 2
  | .idle => 0
  | .running => 1
  | .fatal => 2

/-- A flag as one bit. -/
def flagBit (b : Bool) : BitVec 1 := BitVec.ofBool b

/-- S_STATUS (R23): RESULT in [11:8]; FATAL, DEV_NOT_FOUND, INITIALIZED, RESOLVED, OVR, BUSY in [5:0]; the rest 0. -/
def sStatus (c : Config) (e : Sensor) : Word :=
  (0 : BitVec 20) ++ e.result.bits ++ (0 : BitVec 2) ++ flagBit (!c.busAvailable) ++ flagBit e.devNotFound ++
    flagBit e.initialized ++ flagBit e.resolved ++ flagBit e.ovr ++ flagBit e.busy

/-- L_STATUS (R33): LRESULT in [11:8]; BTN_Q, PHASE, LED_B, LED_A in [5:2]; STATE in [1:0]; the rest 0. -/
def lStatus (l : Led) : Word :=
  (0 : BitVec 20) ++ l.lresult.bits ++ (0 : BitVec 2) ++ flagBit l.btnQ ++ flagBit l.phase ++
    flagBit l.ledB ++ flagBit l.ledA ++ l.state.bits

/-- S_CMD's reject conditions in their order (R222); `none` accepts. An undecodable word is rejected before this,
by `illegalCommand`. -/
def rejectCode (c : Config) (e : Sensor) (i : Instr) : Option ResultCode :=
  if c.busAvailable = false then some .fatal
  else match i with
    | .readReg _ len =>
      if e.resolved = false then some .seq
      else if len.toNat < 1 ∨ c.rxSize < len.toNat then some .arg
      else none
    | .writeReg _ len =>
      if e.resolved = false then some .seq
      else if c.maxWritePayload < len.toNat then some .arg
      else none
    | .resolveAddr => if e.resolved then some .seq else none
    | .init => if e.initialized then some .seq else none
    | .readTemp => if e.initialized then none else some .seq
    | .awaitDrdy => if e.initialized then none else some .seq
    | .readMotion => if e.initialized then none else some .seq
    | .startLed => none

/-- OK or SHORT (R223). -/
def shortOrOk (short : Bool) : ResultCode := if short then .short else .ok

/-- The completion code: `first` (TIMEOUT or NODEV) if its condition holds, else SHORT, else OK (R223). -/
def completionCode (first : ResultCode) (holds short : Bool) : ResultCode :=
  if holds then first else shortOrOk short

end Sys2Proof.Machine
end

