-- ==== Sys2Proof/Machine/Operands.lean ====
section
/-! DEFINITION. What a host access addresses (R22, R72), what it reads (R74, R76), and the sample decodes (R190, R196). -/

namespace Sys2Proof.Machine

/-! ## The register window -/

/-- The offset a host access reaches, if R72 allows it: 32 bits wide, aligned, inside the 4096-byte window. -/
def accessOffset (c : Config) (addr size : Nat) : Option Nat :=
  if size = 4 ∧ c.baseAddr ≤ addr ∧ addr - c.baseAddr ≤ 0xFFF ∧ (addr - c.baseAddr) % 4 = 0 then
    some (addr - c.baseAddr)
  else none

/-- The S_TXBUF entry at an offset (R40), if it lies in 0x400-0x7FC. -/
def txIndex (offset : Nat) : Option Nat :=
  if 0x400 ≤ offset ∧ offset ≤ 0x7FC then some ((offset - 0x400) / 4) else none

/-- The S_RXBUF entry at an offset (R41), if it lies in 0x800-0xBFC. -/
def rxIndex (offset : Nat) : Option Nat :=
  if 0x800 ≤ offset ∧ offset ≤ 0xBFC then some ((offset - 0x800) / 4) else none

/-- A byte buffer's register: the byte in [7:0] (R40, R41). -/
def byteRegister (b : Byte) : Word := b.setWidth 32

/-- A read of the two buffer ranges and of what is reserved (R40, R41, R74, R76): S_RXBUF reads any value while BUSY. -/
def readBuffers (e : Sensor) (offset : Nat) (rxDraw : Byte) : Word :=
  match txIndex offset, rxIndex offset with
  | some i, _ => byteRegister (e.txbuf.read i)
  | none, some i => byteRegister (if e.busy then rxDraw else e.rxbuf.read i)
  | none, none => 0

/-- The 32-bit value at an offset of the window (R22). Write-only registers and reserved offsets read 0 (R74). -/
def readRegister (s : State) (offset : Nat) (rxDraw : Byte) : Word :=
  match offset with
  | 0x000 => 0
  | 0x004 => sStatus s.config s.sensor
  | 0x008 => s.sensor.count.setWidth 32
  | 0x00C => s.sensor.addr.setWidth 32
  | 0x010 => s.sensor.temp16.signExtend 32
  | 0x014 => s.sensor.acc16.x.signExtend 32
  | 0x018 => s.sensor.acc16.y.signExtend 32
  | 0x01C => s.sensor.acc16.z.signExtend 32
  | 0x020 => 0
  | 0x024 => lStatus s.led
  | 0x028 => s.led.pattern
  | 0x02C => s.led.debounce
  | 0x030 => s.led.period
  | 0x034 => s.led.ticks
  | _ => readBuffers s.sensor offset rxDraw

/-! ## Sample decodes -/

/-- `temp_decode` (R190), bias first and complement after it. -/
def tempDecode (c : Config) (raw : Byte) : Int :=
  if raw.toNat < 128 then c.tempBias + raw.toNat else c.tempBias - (256 - raw.toNat)

/-- `decode14` (R196), every operation on 16-bit unsigned values: sign correction first, then the shift. -/
def decode14 (w : Half) : Int :=
  if w.getLsbD 15 then -(((~~~w + 1) >>> 2).toNat : Int) else (w >>> 2).toNat

/-- `(high << 8) | low` (R79, R197). -/
def sampleWord (high low : Byte) : Half := high ++ low

/-- A decoded value in its 16-bit signed register (R30, R31). -/
def signed16 (v : Int) : Half := BitVec.ofInt 16 v

/-! ## Axes -/

/-- The value of one axis. -/
def Axes.get {α : Type} (v : Axes α) : Axis → α
  | .x => v.x
  | .y => v.y
  | .z => v.z

/-- Put the value of one axis. -/
def Axes.set {α : Type} (v : Axes α) (a : α) : Axis → Axes α
  | .x => { v with x := a }
  | .y => { v with y := a }
  | .z => { v with z := a }

/-- The axis read after this one (R198). -/
def Axis.next : Axis → Option Axis
  | .x => some .y
  | .y => some .z
  | .z => none

/-- REG_X_L, REG_Y_L, REG_Z_L. -/
def lowRegister (c : Config) : Axis → Byte
  | .x => c.regXL
  | .y => c.regYL
  | .z => c.regZL

/-- REG_X_H, REG_Y_H, REG_Z_H. -/
def highRegister (c : Config) : Axis → Byte
  | .x => c.regXH
  | .y => c.regYH
  | .z => c.regZH

end Sys2Proof.Machine
end

