-- ==== Sys2Proof/Machine/Discovery.lean ====
section
/-! DEFINITION. RESOLVE_ADDR and INIT: their accept steps and their runs (R180, R185). -/

namespace Sys2Proof.Machine

/-- Whether an identity read answered WHO_AM_I_VALUE. A short read is a mismatch, its stale byte never compared (R181). -/
def identityMatches (c : Config) (sent received : Nat) (e : Sensor) : Bool :=
  readOk 1 sent received && decide (rx0 e = c.whoAmIValue)

/-- `resolve` (R180), shared by RESOLVE_ADDR and INIT: `at'` places a point of it in its command, `return'` goes on with
the address chosen and `nf`. -/
def runResolve (c : Config) (at' : ResolvePt → Running) (return' : Addr → Bool → Sensor → Sensor)
    (p : ResolvePt) (d : BusDraw) (e : Sensor) : Sensor :=
  match p with
  | .high .start => regReadStart c.addrHigh c.regWhoAmI (fun p => at' (.high p)) d e
  | .high (.held sent) => regReadHeld c.addrHigh 1 sent (fun p => at' (.high p)) d e
  | .high (.got sent received) =>
    let e := noteAccess received (readOk 1 sent received) e
    if identityMatches c sent received e then return' c.addrHigh false e
    else regReadStart c.addrLow c.regWhoAmI (fun p => at' (.low p)) d e
  | .low .start => regReadStart c.addrLow c.regWhoAmI (fun p => at' (.low p)) d e
  | .low (.held sent) => regReadHeld c.addrLow 1 sent (fun p => at' (.low p)) d e
  | .low (.got sent received) =>
    let e := noteAccess received (readOk 1 sent received) e
    return' c.addrLow (!identityMatches c sent received e) e

/-- What a resolution commits (R180, R185): the active address, RESOLVED, and DEV_NOT_FOUND, the explicit mark of the
degraded mode (R182). -/
def commitAddress (a : Addr) (nf : Bool) (e : Sensor) : Sensor :=
  { e with addr := a, resolved := true, devNotFound := nf }

/-- RESOLVE_ADDR's complete step (R180). -/
def completeResolve (a : Addr) (nf : Bool) (e : Sensor) : Sensor :=
  complete (completionCode .nodev nf e.shortLatch) (commitAddress a nf e)

/-- RESOLVE_ADDR's write to S_CMD (R155, R180). -/
def execResolveAddr (s : State) : Host.Outcome State Fault Refusal :=
  .next (issueSensor (rejectCode s.config s.sensor .resolveAddr)
    (beginRun (.resolveAddr (.high .start))) s)

/-- RESOLVE_ADDR's pseudocode (R180). -/
def runResolveAddr (c : Config) (p : ResolvePt) (d : BusDraw) (e : Sensor) : Sensor :=
  runResolve c .resolveAddr completeResolve p d e

/-- INIT's write to S_CMD (R155, R185). -/
def execInit (s : State) : Host.Outcome State Fault Refusal :=
  .next (issueSensor (rejectCode s.config s.sensor .init) (beginRun (.init .start)) s)

/-- INIT's complete step (R185): it commits an address only if it ran a resolution itself. -/
def completeInit (ranResolve : Bool) (a : Addr) (nf : Bool) (e : Sensor) : Sensor :=
  let e := if ranResolve then commitAddress a nf e else e
  complete (completionCode .nodev nf e.shortLatch) { e with initialized := true }

/-- INIT's loop over the configuration writes still to do (R185): the next released two-byte write, or the complete step. -/
def initNextWrite (ranResolve : Bool) (a : Addr) (nf : Bool) (writes : List (Byte × Byte)) (d : BusDraw)
    (e : Sensor) : Sensor :=
  match writes with
  | [] => completeInit ranResolve a nf e
  | (r, v) :: rest =>
    let e := stage r [v] e
    let (sent, e) := busWrite a (e.staging.readBytes 2) true d e
    beginRun (.init (.wrote ranResolve a nf rest sent)) e

/-- INIT's pseudocode (R185). -/
def runInit (c : Config) (p : InitPt) (d : BusDraw) (e : Sensor) : Sensor :=
  match p with
  | .start =>
    if e.resolved then initNextWrite false e.addr false c.initWrites d e
    else
      runResolve c (fun p => .init (.resolving p))
        (fun a nf e => initNextWrite true a nf c.initWrites d e) (.high .start) d e
  | .resolving p =>
    runResolve c (fun p => .init (.resolving p))
      (fun a nf e => initNextWrite true a nf c.initWrites d e) p d e
  | .wrote ranResolve a nf rest sent =>
    initNextWrite ranResolve a nf rest d (noteAccess sent (writeOk 1 sent) e)

end Sys2Proof.Machine
end

