-- ==== Sys2Proof/Machine/LedEngine.lean ====
section
/-! DEFINITION. The LED engine: START_LED, the BTN step and the BLINK tick (R121, R124, R131). -/

namespace Sys2Proof.Machine

/-- `period_of(p)` (R129). -/
def periodOf (c : Config) (p : Word) : Word := BitVec.ofNat 32 (c.baseDelay * (p.toNat + 1))

/-- The start of a blink cycle (R130): `pattern` is sampled once, and both half-cycles wait the period latched here. -/
def startCycle (c : Config) (l : Led) : Led :=
  { l with phase := false, period := periodOf c l.pattern, ticks := periodOf c l.pattern }

/-- START_LED's write to L_CMD (R121). -/
def execStartLed (s : State) : Host.Outcome State Fault Refusal :=
  .next (match s.led.state with
    | .running => { s with led := { s.led with lresult := .seq } }
    | .fatal => { s with led := { s.led with lresult := .fatal } }
    | .idle =>
      if s.config.irqAvailable then
        { s with led := { startCycle s.config s.led with state := .running, lresult := .ok } }
      else
        diagnose .fatalIrq 0 { s with led := { s.led with state := .fatal, lresult := .fatal } })

/-- The pattern counter's increment with its wrap (R125, R126). -/
def nextPattern (c : Config) (p : Word) : Word :=
  if p.toNat + 1 = c.maxPattern then 0 else p + 1

/-- The debounce counter's increment, modulo 2^DEBOUNCE_WIDTH (R125, R36, R8). -/
def nextDebounce (c : Config) (d : Word) : Word := BitVec.ofNat 32 ((d.toNat + 1) % 2 ^ c.debounceWidth)

/-- `press_handler()` (R125): every raw edge counts, every second one is a qualifying press (R127) and is reported
(R128). -/
def pressHandler (s : State) : State :=
  let debounce := nextDebounce s.config s.led.debounce
  let s := { s with led := { s.led with debounce := debounce } }
  if debounce.toNat % 2 = 0 then
    let pattern := nextPattern s.config s.led.pattern
    diagnose .pattern pattern { s with led := { s.led with pattern := pattern } }
  else s

/-- The BTN step (R124): `btn_q` follows the input in every state, and a raw edge is handled only while RUNNING (R123). -/
def btnStep (level : Bool) (s : State) : State :=
  let edge := !s.led.btnQ && level
  let s := { s with led := { s.led with btnQ := level } }
  if edge ∧ s.led.state = .running then pressHandler s else s

/-- One tick of a running sequencer (R131). -/
def tickLed (c : Config) (l : Led) : Led :=
  let l := { l with ticks := l.ticks - 1 }
  if l.ticks = 0 then
    if l.phase then startCycle c { l with ledA := false, ledB := true }
    else { l with ledA := true, ledB := false, phase := true, ticks := l.period }
  else l

/-- The BLINK tick (R131): BLINK has no enabled step in IDLE and FATAL, so nothing happens there. -/
def blinkTick (s : State) : State :=
  match s.led.state with
  | .running => { s with led := tickLed s.config s.led }
  | .idle => s
  | .fatal => s

end Sys2Proof.Machine
end

