-- ==== Sys2Proof/Machine/RegAccess.lean ====
section
/-! DEFINITION. READ_REG and WRITE_REG: their accept steps and their runs (R160, R170). -/

namespace Sys2Proof.Machine

/-- READ_REG's write to S_CMD (R155, R160). -/
def execReadReg (reg : Byte) (len : Half) (s : State) : Host.Outcome State Fault Refusal :=
  .next (issueSensor (rejectCode s.config s.sensor (.readReg reg len))
    (beginRun (.readReg reg len .start)) s)

/-- READ_REG's pseudocode (R160), from a point as far as its next bus primitive or its complete step (R156). -/
def runReadReg (reg : Byte) (len : Half) (p : ReadPt) (d : BusDraw) (e : Sensor) : Sensor :=
  match p with
  | .start => regReadStart e.addr reg (.readReg reg len) d e
  | .held sent => regReadHeld e.addr len.toNat sent (.readReg reg len) d e
  | .got sent received =>
    let ok := readOk len.toNat sent received
    complete (shortOrOk (!ok)) (noteAccess received ok e)

/-- WRITE_REG's write to S_CMD (R155, R170): an accepted command copies its payload at once. -/
def execWriteReg (reg : Byte) (len : Half) (s : State) : Host.Outcome State Fault Refusal :=
  .next (issueSensor (rejectCode s.config s.sensor (.writeReg reg len))
    (fun e => beginRun (.writeReg reg len .start) (stage reg (e.txbuf.readBytes len.toNat) e)) s)

/-- WRITE_REG's pseudocode (R170): exactly one released transaction of the register number and the payload. -/
def runWriteReg (reg : Byte) (len : Half) (p : WritePt) (d : BusDraw) (e : Sensor) : Sensor :=
  match p with
  | .start =>
    let (sent, e) := busWrite e.addr (e.staging.readBytes (1 + len.toNat)) true d e
    beginRun (.writeReg reg len (.done sent)) e
  | .done sent =>
    let ok := writeOk len.toNat sent
    complete (shortOrOk (!ok)) (noteAccess sent ok e)

end Sys2Proof.Machine
end

