-- ==== Sys2Proof/Machine/Sampling.lean ====
section
/-! DEFINITION. READ_TEMP, AWAIT_DRDY and READ_MOTION: their accept steps and their runs (R189, R193, R197). -/

namespace Sys2Proof.Machine

/-! ## READ_TEMP -/

/-- READ_TEMP's write to S_CMD (R155, R189). -/
def execReadTemp (s : State) : Host.Outcome State Fault Refusal :=
  .next (issueSensor (rejectCode s.config s.sensor .readTemp) (beginRun (.readTemp .start)) s)

/-- READ_TEMP's pseudocode (R189): a short read leaves `temp16` as it was (R191). -/
def runReadTemp (c : Config) (p : ReadPt) (d : BusDraw) (e : Sensor) : Sensor :=
  match p with
  | .start => regReadStart e.addr c.regTemp .readTemp d e
  | .held sent => regReadHeld e.addr 1 sent .readTemp d e
  | .got sent received =>
    let ok := readOk 1 sent received
    let e := noteAccess received ok e
    let e := if ok then { e with temp16 := signed16 (tempDecode c (rx0 e)) } else e
    complete (shortOrOk (!ok)) e

/-! ## AWAIT_DRDY -/

/-- `poll_n <- min(poll_n + 1, 2^32 - 1)` (R193). -/
def countPoll (e : Sensor) : Sensor :=
  { e with pollN := BitVec.ofNat 32 (min (e.pollN.toNat + 1) (2 ^ 32 - 1)) }

/-- Whether a poll saw data-ready: it was not short, and DRDY_BIT of the status byte is 1 (R193, R195). -/
def pollReady (c : Config) (sent received : Nat) (e : Sensor) : Bool :=
  readOk 1 sent received && (rx0 e).getLsbD c.drdyBit

/-- Whether POLL_LIMIT polls have been made (R193); never, if it is unbounded (R194). -/
def pollsExhausted (c : Config) (e : Sensor) : Bool :=
  match c.pollLimit with
  | none => false
  | some l => decide (l ≤ e.pollN.toNat)

/-- `await` (R193), shared by AWAIT_DRDY and READ_MOTION: `at'` places a point of it in its command, `ready` and
`timeout` go on from its two ways out. -/
def runAwait (c : Config) (at' : ReadPt → Running) (ready timeout : Sensor → Sensor) (p : ReadPt)
    (d : BusDraw) (e : Sensor) : Sensor :=
  match p with
  | .start => regReadStart e.addr c.regStatus at' d e
  | .held sent => regReadHeld e.addr 1 sent at' d e
  | .got sent received =>
    let e := countPoll (noteAccess received (readOk 1 sent received) e)
    if pollReady c sent received e then ready e
    else if pollsExhausted c e then timeout e
    else regReadStart e.addr c.regStatus at' d e

/-- AWAIT_DRDY's write to S_CMD (R155, R193). -/
def execAwaitDrdy (s : State) : Host.Outcome State Fault Refusal :=
  .next (issueSensor (rejectCode s.config s.sensor .awaitDrdy) (beginRun (.awaitDrdy .start)) s)

/-- AWAIT_DRDY's pseudocode (R193). -/
def runAwaitDrdy (c : Config) (p : ReadPt) (d : BusDraw) (e : Sensor) : Sensor :=
  runAwait c .awaitDrdy (fun e => complete (shortOrOk e.shortLatch) e) (complete .timeout) p d e

/-! ## READ_MOTION -/

/-- READ_MOTION's write to S_CMD (R155, R197). -/
def execReadMotion (s : State) : Host.Outcome State Fault Refusal :=
  .next (issueSensor (rejectCode s.config s.sensor .readMotion)
    (beginRun (.readMotion (.await .start))) s)

/-- READ_MOTION's complete step: an axis with a short read keeps its value (R197, R199). -/
def completeMotion (new : Axes (Option Half)) (e : Sensor) : Sensor :=
  complete (shortOrOk e.shortLatch)
    { e with
      acc16 :=
        { x := new.x.getD e.acc16.x
          y := new.y.getD e.acc16.y
          z := new.z.getD e.acc16.z } }

/-- No axis decoded yet. -/
def noAxes : Axes (Option Half) := { x := none, y := none, z := none }

/-- The first primitive of an axis: the held write of its low register (R198). -/
def motionAxis (c : Config) (axis : Axis) (new : Axes (Option Half)) (d : BusDraw) (e : Sensor) : Sensor :=
  regReadStart e.addr (lowRegister c axis) (fun p => .readMotion (.low axis new p)) d e

/-- READ_MOTION's pseudocode (R197). -/
def runReadMotion (c : Config) (p : MotionPt) (d : BusDraw) (e : Sensor) : Sensor :=
  match p with
  | .await p =>
    runAwait c (fun p => .readMotion (.await p)) (motionAxis c .x noAxes d) (complete .timeout) p d e
  | .low axis new .start => motionAxis c axis new d e
  | .low axis new (.held sent) =>
    regReadHeld e.addr 1 sent (fun p => .readMotion (.low axis new p)) d e
  | .low axis new (.got sent received) =>
    let okL := readOk 1 sent received
    let e := noteAccess received okL e
    let lo := rx0 e
    regReadStart e.addr (highRegister c axis) (fun p => .readMotion (.high axis okL lo new p)) d e
  | .high axis okL lo new .start =>
    regReadStart e.addr (highRegister c axis) (fun p => .readMotion (.high axis okL lo new p)) d e
  | .high axis okL lo new (.held sent) =>
    regReadHeld e.addr 1 sent (fun p => .readMotion (.high axis okL lo new p)) d e
  | .high axis okL lo new (.got sent received) =>
    let okH := readOk 1 sent received
    let e := noteAccess received okH e
    let new := if okL && okH then new.set (some (signed16 (decode14 (sampleWord (rx0 e) lo)))) axis else new
    match axis.next with
    | some axis => motionAxis c axis new d e
    | none => completeMotion new e

end Sys2Proof.Machine
end

