-- ==== Sys2Proof/Machine/Dispatch.lean ====
section
/-! DEFINITION. The dispatch of a decoded command to its meaning: the host's write of its word to its register. -/

namespace Sys2Proof.Machine

def exec (i : Instr) (s : State) : Host.Outcome State Fault Refusal :=
  match i with
  | .readReg reg len => Sys2Proof.Machine.execReadReg reg len s
  | .writeReg reg len => Sys2Proof.Machine.execWriteReg reg len s
  | .resolveAddr => Sys2Proof.Machine.execResolveAddr s
  | .init => Sys2Proof.Machine.execInit s
  | .readTemp => Sys2Proof.Machine.execReadTemp s
  | .awaitDrdy => Sys2Proof.Machine.execAwaitDrdy s
  | .readMotion => Sys2Proof.Machine.execReadMotion s
  | .startLed => Sys2Proof.Machine.execStartLed s

end Sys2Proof.Machine
end

