-- ==== Sys2Proof/Machine/Agents.lean ====
section
/-! DEFINITION. The agents' steps over the whole state: SENSOR's steps and HOST's accesses (R15, R72 to R76, R156). -/

namespace Sys2Proof.Machine

/-! ## SENSOR -/

/-- One SENSOR step of the running command (R156). An idle engine has no step to take. -/
def stepSensor (c : Config) (d : BusDraw) (e : Sensor) : Sensor :=
  match e.ctl with
  | .idle => e
  | .run (.readReg reg len p) => runReadReg reg len p d e
  | .run (.writeReg reg len p) => runWriteReg reg len p d e
  | .run (.resolveAddr p) => runResolveAddr c p d e
  | .run (.init p) => runInit c p d e
  | .run (.readTemp p) => runReadTemp c p d e
  | .run (.awaitDrdy p) => runAwaitDrdy c p d e
  | .run (.readMotion p) => runReadMotion c p d e

/-- The SENSOR agent's step on the state: it touches the sensor engine alone (R136). -/
def sensorStep (d : BusDraw) (s : State) : State :=
  { s with sensor := stepSensor s.config d s.sensor }

/-! ## HOST -/

/-- An access R72 refuses: no effect on the block, an error response, and the fault recorded (R229).
The host goes on with its next access: DESIGN CHOICE (log entry 6), safe. -/
def recordAccessError (addr size : Nat) (s : State) : State :=
  { s with hostErrors := s.hostErrors ++ [.hostAccessError ((addr : Int) - s.config.baseAddr) size] }

/-- A word that spells no command (R106): ILLEGAL and no other effect; a write to S_CMD is dropped before decode while
BUSY (R25). That one taken while not BUSY clears OVR is DEDUCED from R25 and R155 (log entry 14). -/
def illegalCommand (p : Port) (s : State) : State :=
  match p with
  | .sCmd => issueSensor (some .illegal) (fun e => e) s
  | .lCmd => { s with led := { s.led with lresult := .illegal } }

/-- A write of a word to a command register (R73, R108). -/
def writeCommand (p : Port) (w : Word) (s : State) : Host.Outcome State Fault Refusal :=
  match decode p w with
  | .ok i => exec i s
  | .error _ => .next (illegalCommand p s)

/-- A write to one of the other offsets (R73, R74): S_TXBUF takes bits [7:0], nothing else takes anything. -/
def writeBuffers (offset : Nat) (v : Word) (s : State) : State :=
  match txIndex offset with
  | some i => { s with sensor := { s.sensor with txbuf := s.sensor.txbuf.write i (byteLane v 0) } }
  | none => s

/-- `MemWrite` at an offset of the window (R73, R74). -/
def writeRegister (offset : Nat) (v : Word) (s : State) : Host.Outcome State Fault Refusal :=
  match portAt offset with
  | some p => writeCommand p v s
  | none => .next (writeBuffers offset v s)

/-- `MemWrite(addr, size, v)` (R12, R72). -/
def hostWrite (addr size : Nat) (v : Word) (s : State) : Host.Outcome State Fault Refusal :=
  match accessOffset s.config addr size with
  | some offset => writeRegister offset v s
  | none => .next (recordAccessError addr size s)

/-- `name <- MemRead(addr, size)` (R12, R72, R109): no effect but on the host's own names (R73). -/
def hostRead (addr size : Nat) (name : String) (rxDraw : Byte) (s : State) : State :=
  match accessOffset s.config addr size with
  | some offset => { s with reads := s.reads ++ [{ name := name, value := readRegister s offset rxDraw }] }
  | none => recordAccessError addr size s

/-- HOST's next access, in program order (R85); a host that has done its last access takes no step (R272). WAITIDLE is
`RD 0x004 -> s`, once a turn, and stands at the front of the program until that read shows `s[0]` = 0 (R109). -/
def hostStep (rxDraw : Byte) (s : State) : Host.Outcome State Fault Refusal :=
  match s.program with
  | [] => .next s
  | .memWrite addr size v :: rest => hostWrite addr size v { s with program := rest }
  | .memRead addr size name :: rest => .next (hostRead addr size name rxDraw { s with program := rest })
  | .waitIdle :: rest =>
    let t := hostRead (s.config.baseAddr + 0x004) 4 "s" rxDraw s
    .next (if (readRegister s 0x004 rxDraw).getLsbD 0 then t else { t with program := rest })

/-! ## One agent's step -/

/-- The step of the agent that is scheduled (R15, R84). -/
def agentStep (a : AgentStep) (s : State) : Host.Outcome State Fault Refusal :=
  match a with
  | .host rxDraw => hostStep rxDraw s
  | .sensor answer => .next (sensorStep answer s)
  | .btn level => .next (btnStep level s)
  | .blink => .next (blinkTick s)
  | .reset tx rx staging => .next (resetBlock tx rx staging s)

end Sys2Proof.Machine
end

