-- ==== Sys2Proof/Machine/HostSyntax.lean ====
section
/-! DEFINITION. The host's assembly syntax and its expansions into accesses (R109, R110). -/

namespace Sys2Proof.Machine

/-- `WR off, imm32` (R109). -/
def opWr (c : Config) (offset : Nat) (v : Word) : HostOp := .memWrite (c.baseAddr + offset) 4 v

/-- `RD off -> name` (R109). -/
def opRd (c : Config) (offset : Nat) (name : String) : HostOp := .memRead (c.baseAddr + offset) 4 name

/-- A command's `WR` of its word to its register (R110). -/
def opCommand (c : Config) (i : Instr) : HostOp := opWr c (encode i).1.offset (encode i).2

/-- The `WR`s that put a payload into S_TXBUF from entry `k` on (R110). -/
def opsPayload (c : Config) (k : Nat) : List Byte → List HostOp
  | [] => []
  | b :: bs => opWr c (0x400 + 4 * k) (b.setWidth 32) :: opsPayload c (k + 1) bs

/-- `WRITE_REG reg, [d0, ...]` (R110): the payload first, then the command (R260). -/
def opsWriteReg (c : Config) (reg : Byte) (payload : List Byte) : List HostOp :=
  opsPayload c 0 payload ++ [opCommand c (.writeReg reg (BitVec.ofNat 16 payload.length))]

/-- `CALL c` (R110): the expansion of `c`, then WAITIDLE. -/
def opsCall (ops : List HostOp) : List HostOp := ops ++ [.waitIdle]

end Sys2Proof.Machine
end

