-- ==== Sys2Proof/Machine/Step.lean ====
section
/-! DEFINITION. One step of the machine: the next scheduled agent's step (R84). -/

namespace Sys2Proof.Machine

/-- One step in the one total order of the agents' steps (R84). The schedule says which agent is next and what it draws;
with nothing scheduled nothing happens (R251): DESIGN CHOICE (log entry 5), safe. A configuration outside R9 has no meaning (log entry 9). -/
def step (s : State) : Host.Outcome State Fault Refusal :=
  if s.config.inRange then
    match s.schedule with
    | [] => .next s
    | a :: rest => agentStep a { s with schedule := rest }
  else .refused .configurationOutOfRange

/-- `s` with a command word placed where the machine takes its next command: HOST's next access is the write of the word
to its command register, and HOST steps next (log entry 1). -/
def State.withFetchWord (s : State) (nbits w : Nat) : State :=
  { s with
    program := opWr s.config (tableOffset nbits w) (tableWord nbits w) :: s.program
    schedule := .host 0 :: s.schedule }

end Sys2Proof.Machine
end

