-- ==== Sys2Proof/WellFormed.lean ====
section
/-! DEFINITION. Well-formed commands: the operand ranges of R103. -/

namespace Sys2Proof

/-- R103's legal LEN ranges: READ_REG 1 to RX_SIZE, WRITE_REG 0 to MAX_WRITE_PAYLOAD; every other command ignores LEN.
An ill-formed command still decodes (R108); the machine rejects it with ARG (R222). -/
def WellFormed (c : Config) : Instr → Bool
  | .readReg _ len => decide (1 ≤ len.toNat) && decide (len.toNat ≤ c.rxSize)
  | .writeReg _ len => decide (len.toNat ≤ c.maxWritePayload)
  | .resolveAddr => true
  | .init => true
  | .readTemp => true
  | .awaitDrdy => true
  | .readMotion => true
  | .startLed => true

end Sys2Proof
end

