-- ==== Sys2Proof/Safety.lean ====
section
/-! DEFINITION. What counts as a safe run: the machine's invariants, the end of a run, and the words claims use. -/

namespace Sys2Proof.Machine

/-! ## Runs of one agent's steps -/

/-- SENSOR steps in a row, each with its answer. -/
def sensorSteps : List BusDraw → State → State
  | [], s => s
  | d :: ds, s => sensorSteps ds (sensorStep d s)

/-- Steps of the LED engine's two agents: `none` is a BLINK tick, `some level` a BTN step. -/
def ledSteps : List (Option Bool) → State → State
  | [], s => s
  | none :: l, s => ledSteps l (blinkTick s)
  | some level :: l, s => ledSteps l (btnStep level s)

/-- The raw edges among such steps, from a button level `q` sampled before (R123). -/
def rawEdges (q : Bool) : List (Option Bool) → Nat
  | [] => 0
  | none :: l => rawEdges q l
  | some level :: l => (if !q && level then 1 else 0) + rawEdges level l

/-- The BLINK ticks among such steps. -/
def tickCount : List (Option Bool) → Nat
  | [] => 0
  | none :: l => tickCount l + 1
  | some _ :: l => tickCount l

/-! ## What the bus answers -/

/-- The byte a one-byte register read gets from the answers to its two transactions; `none` if it is short (R158). -/
def answered (w r : BusDraw) : Option Byte :=
  if 1 ≤ w.sent then r.data.head? else none

/-- The two transactions of a one-byte register read (R78), as the history holds them (R153). -/
def readEvents (a : Addr) (r : Byte) (w d : BusDraw) : List BusEvent :=
  [.bw a [r] false (min w.sent 1), .br a 1 (d.data.take 1).length (d.data.take 1)]

/-- Whether a data-ready poll saw the bit: not short, and DRDY_BIT is 1 (R193). -/
def sawReady (c : Config) (poll : BusDraw × BusDraw) : Bool :=
  match answered poll.1 poll.2 with
  | some b => b.getLsbD c.drdyBit
  | none => false

/-- Whether a data-ready poll was short. -/
def pollShort (poll : BusDraw × BusDraw) : Bool := (answered poll.1 poll.2).isNone

/-- The answers to a row of polls, in the order the engine asks for them. -/
def pollAnswers : List (BusDraw × BusDraw) → List BusDraw
  | [] => []
  | (w, r) :: polls => w :: r :: pollAnswers polls

/-- The transactions of a row of polls at REG_STATUS (R195). -/
def pollEvents (c : Config) (a : Addr) : List (BusDraw × BusDraw) → List BusEvent
  | [] => []
  | (w, r) :: polls => readEvents a c.regStatus w r ++ pollEvents c a polls

/-- S_RXBUF after a row of one-byte register reads: each stores the byte it received, if any, at entry 0 (R152). -/
def readBuffer (m : Memory) : List (BusDraw × BusDraw) → Memory
  | [] => m
  | (_, r) :: reads => readBuffer (m.writeBytes 0 (r.data.take 1)) reads

/-- The released two-byte writes of INIT_WRITES with their answers (R185). -/
def initEvents (a : Addr) : List (Byte × Byte) → List BusDraw → List BusEvent
  | (r, v) :: writes, w :: ws => .bw a [r, v] true (min w.sent 2) :: initEvents a writes ws
  | _, _ => []

/-- The staging buffer after INIT's writes (R158). -/
def initStaging (m : Memory) : List (Byte × Byte) → Memory
  | [] => m
  | (r, v) :: writes => initStaging (m.writeBytes 0 [r, v]) writes

/-- The count of the last transaction INIT made (R45): its last write's, else what was reported before. -/
def lastSent (before : Option Nat) : List BusDraw → Option Nat
  | [] => before
  | w :: ws => lastSent (some (min w.sent 2)) ws

/-- Some write of INIT was short (R158). -/
def someShort (ws : List BusDraw) : Bool := ws.any (fun w => decide (w.sent < 2))

/-- COUNT after a complete step (R157). -/
def committedCount (before : Half) (last : Option Nat) : Half :=
  match last with
  | some n => BitVec.ofNat 16 n
  | none => before

/-! ## Accepted and rejected commands -/

/-- The state after a sensor command that is rejected with `code` and reports nothing (R155, R221). -/
def rejectedWith (code : ResultCode) (s : State) : State :=
  { s with sensor := { s.sensor with ovr := false, result := code } }

/-- The state after a sensor command is accepted and latched (R155). -/
def acceptedAs (r : Running) (s : State) : State :=
  { s with
    sensor :=
      { s.sensor with ovr := false, shortLatch := false, pollN := 0, lastCount := none, ctl := .run r } }

/-- The sensor engine can take a command: it runs none, its bus is there (R155, R224), and its configuration has a meaning
(R9). -/
def canTake (s : State) : Prop :=
  s.sensor.ctl = .idle ∧ s.config.busAvailable = true ∧ s.config.inRange = true

/-! ## The end of a run -/

/-- No HostAccessError is recorded (R229). -/
def noHostError (s : State) : Prop := s.hostErrors = []

/-- A run of a host program is over (R272). It says nothing of the LED engine, which does not stop. -/
def runOver (s : State) : Prop := s.program = [] ∧ s.sensor.busy = false ∧ noHostError s

/-- The premise BUS_ANSWERS (R151) for a finite schedule: it lets SENSOR take `n` steps. -/
def busAnswers (n : Nat) (schedule : List AgentStep) : Prop :=
  n ≤ (schedule.filter (fun a => match a with | .sensor _ => true | _ => false)).length

/-! ## Invariants of the sensor engine -/

/-- A buffer of the block: canonical, and within its 256 entries. -/
def bufferOk (m : Memory) : Prop := Memory.wf m ∧ Memory.below 256 m

/-- A candidate address: the only ones the engine addresses (R77). -/
def candidate (c : Config) (a : Addr) : Prop := a = c.addrHigh ∨ a = c.addrLow

/-- A decoded acceleration is in [-8192, 8191] (R31, R196). -/
def accInRange (v : Half) : Prop := -8192 ≤ v.toInt ∧ v.toInt ≤ 8191

/-- A point of a register read of `n` bytes holds counts its answers can have (R151). -/
def readPtOk (n : Nat) : ReadPt → Prop
  | .start => True
  | .held sent => sent ≤ 1
  | .got sent received => sent ≤ 1 ∧ received ≤ n

/-- The point inside `resolve` holds possible counts. -/
def resolvePtOk : ResolvePt → Prop
  | .high p => readPtOk 1 p
  | .low p => readPtOk 1 p

/-- Every decoded axis that READ_MOTION still holds back is in range. -/
def newAxesOk (new : Axes (Option Half)) : Prop :=
  (∀ v, new.x = some v → accInRange v) ∧ (∀ v, new.y = some v → accInRange v) ∧
    (∀ v, new.z = some v → accInRange v)

/-- The running command satisfies the conditions it was accepted under (R222), and its locals are possible. -/
def runningOk (c : Config) (e : Sensor) : Running → Prop
  | .readReg _ len p => e.resolved = true ∧ 1 ≤ len.toNat ∧ len.toNat ≤ 256 ∧ readPtOk len.toNat p
  | .writeReg _ len p =>
    e.resolved = true ∧ len.toNat ≤ 255 ∧ (match p with | .start => True | .done sent => sent ≤ 1 + len.toNat)
  | .resolveAddr p => e.resolved = false ∧ resolvePtOk p
  | .init .start => e.initialized = false
  | .init (.resolving p) => e.initialized = false ∧ e.resolved = false ∧ resolvePtOk p
  | .init (.wrote ran a nf _ sent) =>
    e.initialized = false ∧ sent ≤ 2 ∧ candidate c a ∧ (nf = true → a = c.addrLow) ∧
      e.resolved = !ran ∧ (ran = false → a = e.addr ∧ nf = false)
  | .readTemp p => e.initialized = true ∧ readPtOk 1 p
  | .awaitDrdy p => e.initialized = true ∧ readPtOk 1 p
  | .readMotion (.await p) => e.initialized = true ∧ readPtOk 1 p
  | .readMotion (.low _ new p) => e.initialized = true ∧ readPtOk 1 p ∧ newAxesOk new
  | .readMotion (.high _ _ _ new p) => e.initialized = true ∧ readPtOk 1 p ∧ newAxesOk new

/-- A bus event is one a transaction can make (R150, R151, R77): addressed to a candidate, within the buffers' sizes, and
with a count the bus can report. -/
def eventOk (c : Config) : BusEvent → Prop
  | .bw a bytes release sent =>
    candidate c a ∧ 1 ≤ bytes.length ∧ bytes.length ≤ 256 ∧ sent ≤ bytes.length ∧
      (release = false → bytes.length = 1)
  | .br a n received data => candidate c a ∧ 1 ≤ n ∧ n ≤ 256 ∧ received = data.length ∧ received ≤ n

/-- The sensor engine's invariant. -/
structure SensorInv (c : Config) (e : Sensor) : Prop where
  /-- The three buffers are canonical and hold 256 entries (R32, R40, R41). -/
  txOk : bufferOk e.txbuf
  rxOk : bufferOk e.rxbuf
  stagingOk : bufferOk e.staging
  /-- ADDR reads 0 until RESOLVED is 1 (R29), and is then a candidate (R77). -/
  addrUnresolved : e.resolved = false → e.addr = 0
  addrResolved : e.resolved = true → candidate c e.addr
  /-- INIT resolves first (R185). -/
  initializedResolved : e.initialized = true → e.resolved = true
  /-- The degraded mode's address is ADDR_LOW (R182). -/
  notFoundLow : e.devNotFound = true → e.resolved = true ∧ e.addr = c.addrLow
  /-- COUNT and last_count are byte counts of one transaction (R28, R32). -/
  countRange : e.count.toNat ≤ 256
  lastCountRange : ∀ n, e.lastCount = some n → n ≤ 256
  /-- temp16 is in [-103, 152] (R30). -/
  tempRange : -103 ≤ e.temp16.toInt ∧ e.temp16.toInt ≤ 152
  /-- acc16 is in [-8192, 8191] (R31). -/
  accRange : accInRange e.acc16.x ∧ accInRange e.acc16.y ∧ accInRange e.acc16.z
  /-- Without the bus no command runs (R224), and only then is FATAL_BUS reported. -/
  busyAvailable : e.busy = true → c.busAvailable = true
  reportedUnavailable : e.fatalReported = true → c.busAvailable = false
  /-- The running command is a possible one. -/
  running : ∀ r, e.ctl = .run r → runningOk c e r
  /-- Every event of the history is a possible one. -/
  history : ∀ v ∈ e.busHistory, eventOk c v

/-! ## Invariants of the LED engine -/

/-- Nothing has been counted or lit: the LED engine before START_LED, and in FATAL (R120, R122, R225). -/
def ledDark (l : Led) : Prop :=
  l.ledA = false ∧ l.ledB = false ∧ l.phase = false ∧ l.pattern = 0 ∧ l.debounce = 0 ∧
    l.period = 0 ∧ l.ticks = 0

/-- The LED levels of a running sequencer (R132): A on and B off in the second half-cycle, B on and A off in the first,
both off until the first update. -/
def ledLevels (l : Led) : Prop :=
  if l.phase then l.ledA = true ∧ l.ledB = false else l.ledA = false

/-- The LED engine's invariant. -/
structure LedInv (c : Config) (l : Led) : Prop where
  /-- 0 <= pattern < MAX_PATTERN (R35). -/
  patternRange : l.pattern.toNat < c.maxPattern
  idleDark : l.state = .idle → ledDark l
  /-- FATAL is entered only without the interrupt path, RUNNING only with it (R121, R225). -/
  fatalDark : l.state = .fatal → ledDark l ∧ c.irqAvailable = false
  runningAvailable : l.state = .running → c.irqAvailable = true
  /-- 1 <= ticks <= period while RUNNING (R38). -/
  ticksRange : l.state = .running → 1 ≤ l.ticks.toNat ∧ l.ticks.toNat ≤ l.period.toNat
  /-- period is BASE_DELAY * (p + 1) for a pattern p while RUNNING (R37, R129). -/
  periodLatched : l.state = .running → ∃ p < c.maxPattern, l.period.toNat = c.baseDelay * (p + 1)
  levels : l.state = .running → ledLevels l
  /-- The LED engine's result codes (R220, R121). -/
  lresultRange : l.lresult ≠ .short ∧ l.lresult ≠ .arg ∧ l.lresult ≠ .timeout ∧ l.lresult ≠ .nodev

/-- The machine's invariant. -/
structure Inv (s : State) : Prop where
  configOk : s.config.inRange = true
  sensor : SensorInv s.config s.sensor
  led : LedInv s.config s.led

/-! ## The framing of register reads -/

/-- The held write a register read stands after, and the read that must follow it: address, register, length, count sent. -/
structure PendingRead where
  a7 : Addr
  reg : Byte
  n : Nat
  sent : Nat
  deriving DecidableEq, Repr

/-- A pending read, if the point is just after a held write. -/
def pendingAt (a : Addr) (reg : Byte) (n : Nat) : ReadPt → Option PendingRead
  | .start => none
  | .held sent => some { a7 := a, reg := reg, n := n, sent := sent }
  | .got _ _ => none

/-- The pending read inside `resolve`. -/
def pendingResolve (c : Config) : ResolvePt → Option PendingRead
  | .high p => pendingAt c.addrHigh c.regWhoAmI 1 p
  | .low p => pendingAt c.addrLow c.regWhoAmI 1 p

/-- The pending read of the running command (R78, R91). -/
def pendingRead (c : Config) (e : Sensor) : Option PendingRead :=
  match e.ctl with
  | .idle => none
  | .run (.readReg reg len p) => pendingAt e.addr reg len.toNat p
  | .run (.writeReg _ _ _) => none
  | .run (.resolveAddr p) => pendingResolve c p
  | .run (.init .start) => none
  | .run (.init (.resolving p)) => pendingResolve c p
  | .run (.init (.wrote _ _ _ _ _)) => none
  | .run (.readTemp p) => pendingAt e.addr c.regTemp 1 p
  | .run (.awaitDrdy p) => pendingAt e.addr c.regStatus 1 p
  | .run (.readMotion (.await p)) => pendingAt e.addr c.regStatus 1 p
  | .run (.readMotion (.low axis _ p)) => pendingAt e.addr (lowRegister c axis) 1 p
  | .run (.readMotion (.high axis _ _ _ p)) => pendingAt e.addr (highRegister c axis) 1 p

/-- A register read that has made its held write has made nothing after it: the write is the history's last event (R91). -/
def heldIsLast (s : State) : Prop :=
  ∀ p, pendingRead s.config s.sensor = some p →
    s.sensor.busHistory.getLast? = some (.bw p.a7 [p.reg] false p.sent)

end Sys2Proof.Machine
end

