-- ==== Sys2Proof/Certificates/Slice0/Obligations.lean ====
section
/-! DEFINITION. The statements for the provers, one `Obligations.<Name>` each, from the numbered rules of spec/. -/

open Sys2Proof Sys2Proof.Machine

/-! ## Encoding -/

/-- The words R111 and the vectors V9 and V10 write out, and what they stand for (R100, R102, R104). -/
def Obligations.SpecWordsDecode : Prop :=
  decode .sCmd 0x00012002 = .ok (.writeReg 0x20 1) ∧
  decode .sCmd 0x00012701 = .ok (.readReg 0x27 1) ∧
  decode .sCmd 0x01000F01 = .ok (.readReg 0x0F 256) ∧
  decode .sCmd 0x00000004 = .ok .init ∧
  decode .sCmd 0xFFFF0003 = .ok .resolveAddr ∧
  decode .sCmd 0x00000005 = .ok .readTemp ∧
  decode .sCmd 0x00000006 = .ok .awaitDrdy ∧
  decode .sCmd 0x00000007 = .ok .readMotion ∧
  decode .lCmd 0xABCDEF01 = .ok .startLed

/-- Decode and encode agree, on the word and on its byte lanes (R71, R100, R101, R102, R104). -/
def Obligations.DecodeOfEncodeIsTheCommand : Prop :=
  ∀ i : Instr, decode (encode i).1 (encode i).2 = .ok i ∧
    decodeBytes (encode i).1 (wordLanes (encode i).2) = .ok i

/-- The whole opcode map, field by field, and what spells no command (R101, R102, R104, R106, R108). -/
def Obligations.OpcodeMapIsTotal : Prop :=
  ∀ w : Word,
    let op := (w.extractLsb' 0 8).toNat
    let reg := w.extractLsb' 8 8
    let len := w.extractLsb' 16 16
    (op = 0x01 → decode .sCmd w = .ok (.readReg reg len)) ∧
    (op = 0x02 → decode .sCmd w = .ok (.writeReg reg len)) ∧
    (op = 0x03 → decode .sCmd w = .ok .resolveAddr) ∧
    (op = 0x04 → decode .sCmd w = .ok .init) ∧
    (op = 0x05 → decode .sCmd w = .ok .readTemp) ∧
    (op = 0x06 → decode .sCmd w = .ok .awaitDrdy) ∧
    (op = 0x07 → decode .sCmd w = .ok .readMotion) ∧
    (op = 0x00 ∨ 0x08 ≤ op → ∃ e, decode .sCmd w = .error e) ∧
    (op = 0x01 → decode .lCmd w = .ok .startLed) ∧
    (op ≠ 0x01 → ∃ e, decode .lCmd w = .error e)

/-- The fields REG and LEN of opcodes 0x03 to 0x07, and bits [31:8] of L_CMD, are ignored (R107). -/
def Obligations.IgnoredFieldsDoNotMatter : Prop :=
  ∀ (s : State) (w : Word),
    (3 ≤ (w.extractLsb' 0 8).toNat → (w.extractLsb' 0 8).toNat ≤ 7 →
      writeRegister 0x000 w s = writeRegister 0x000 (w &&& 0xFF) s) ∧
    writeRegister 0x020 w s = writeRegister 0x020 (w &&& 0xFF) s

/-! ## The step -/

/-- When HOST's next access is the write of a word to its command register and HOST is next, the step is exec of the
decoded command, past that access and that turn (R84, R85, R108; program and schedule are the model's own, log entries 1
and 5). -/
def Obligations.StepRunsTheWrittenCommand : Prop :=
  ∀ (s : State) (p : Port) (w : Word) (i : Instr) (d : Byte) (ops : List HostOp) (rest : List AgentStep),
    s.config.inRange = true →
    s.program = .memWrite (s.config.baseAddr + p.offset) 4 w :: ops →
    s.schedule = .host d :: rest →
    decode p w = .ok i →
    step s = exec i { s with program := ops, schedule := rest }

/-- A word placed as the next command is the next to run, in the state it was placed in. The placing is the model's own
(log entry 1). -/
def Obligations.PlacedWordRunsNext : Prop :=
  ∀ (s : State) (nbits w : Nat) (i : Instr),
    s.config.inRange = true → decodeTableWord nbits w = some i →
    step (s.withFetchWord nbits w) = exec i s

/-- A configuration outside R9's constraints, or with another value of a parameter R8 fixes (DEDUCED, log entry 8), is
refused, and in every other one every step completes: the block has no trap and no condition that stops it (R227), a
refused host access is recorded and the host goes on (R229; DESIGN CHOICE, log entry 6), and an empty schedule stutters
(DESIGN CHOICE, log entry 5). -/
def Obligations.OnlyBadConfigurationsAreRefused : Prop :=
  ∀ s : State,
    let bad := s.config.maxPattern < 1 ∨ s.config.baseDelay < 1 ∨
      2 ^ 32 - 1 < s.config.baseDelay * s.config.maxPattern ∨
      (∃ l, s.config.pollLimit = some l ∧ (l < 1 ∨ 2 ^ 32 - 1 < l)) ∨
      s.config.stagingSize ≠ 256 ∨ s.config.maxWritePayload ≠ 255 ∨ s.config.rxSize ≠ 256 ∨
      s.config.debounceWidth ≠ 32 ∨ s.config.drdyBit ≠ 0 ∨ s.config.tempBias ≠ 25
    (bad → step s = .refused .configurationOutOfRange) ∧ (¬bad → ∃ t, step s = .next t)

/-- A step is the step of the agent the schedule names, past that turn; with nothing scheduled nothing happens (R84; the
schedule is the model's own, log entry 5). -/
def Obligations.StepTakesTheScheduledTurn : Prop :=
  ∀ (s : State) (rest : List AgentStep), s.config.inRange = true →
    (s.schedule = [] → step s = .next s) ∧
    (∀ d, s.schedule = .sensor d :: rest → step s = .next (sensorStep d { s with schedule := rest })) ∧
    (∀ b, s.schedule = .btn b :: rest → step s = .next (btnStep b { s with schedule := rest })) ∧
    (s.schedule = .blink :: rest → step s = .next (blinkTick { s with schedule := rest })) ∧
    (∀ tx rx st, s.schedule = .reset tx rx st :: rest →
      step s = .next (resetBlock tx rx st { s with schedule := rest })) ∧
    (∀ d, s.schedule = .host d :: rest → step s = hostStep d { s with schedule := rest })

/-! ## Host accesses -/

/-- An access of another width, not aligned or outside the window has no effect but the recorded fault (R72, R229).
That the step goes on and a refused read gives its name no value is DESIGN CHOICE (log entry 6); that host addresses do
not wrap and the offset is an integer is DESIGN CHOICE (log entry 12). -/
def Obligations.RefusedAccessIsOnlyRecorded : Prop :=
  ∀ (s : State) (addr size : Nat) (v : Word) (name : String) (d : Byte),
    let offset : Int := (addr : Int) - s.config.baseAddr
    (size ≠ 4 ∨ offset % 4 ≠ 0 ∨ offset < 0 ∨ 0xFFF < offset) →
    let t := { s with hostErrors := s.hostErrors ++ [.hostAccessError offset size] }
    hostWrite addr size v s = .next t ∧ hostRead addr size name d s = t

/-- An allowed access reaches the register at its offset and records no fault (R72): a MemRead changes nothing but what the
host has read (R73) and gives one state's whole register (R75), and a MemWrite is the write of that register (R73). -/
def Obligations.AllowedAccessesReachTheirRegister : Prop :=
  ∀ (s : State) (offset : Nat) (v : Word) (name : String) (d : Byte), offset ≤ 0xFFF → offset % 4 = 0 →
    hostRead (s.config.baseAddr + offset) 4 name d s =
      { s with reads := s.reads ++ [{ name := name, value := readRegister s offset d }] } ∧
    hostWrite (s.config.baseAddr + offset) 4 v s = writeRegister offset v s ∧
    ∃ t, writeRegister offset v s = .next t ∧ t.hostErrors = s.hostErrors

/-- What every offset of the window reads (R22, R23, R28 to R31, R33, R35 to R38, R40, R41, R74, R76). The fields of the
two status words are stated by SensorStatusFields and LedStatusFields. -/
def Obligations.WindowReads : Prop :=
  ∀ (s : State) (d : Byte),
    readRegister s 0x000 d = 0 ∧ readRegister s 0x020 d = 0 ∧
    readRegister s 0x004 d = sStatus s.config s.sensor ∧ readRegister s 0x024 d = lStatus s.led ∧
    readRegister s 0x008 d = BitVec.ofNat 32 s.sensor.count.toNat ∧
    readRegister s 0x00C d = BitVec.ofNat 32 s.sensor.addr.toNat ∧
    (readRegister s 0x010 d).toInt = s.sensor.temp16.toInt ∧
    (readRegister s 0x014 d).toInt = s.sensor.acc16.x.toInt ∧
    (readRegister s 0x018 d).toInt = s.sensor.acc16.y.toInt ∧
    (readRegister s 0x01C d).toInt = s.sensor.acc16.z.toInt ∧
    readRegister s 0x028 d = s.led.pattern ∧ readRegister s 0x02C d = s.led.debounce ∧
    readRegister s 0x030 d = s.led.period ∧ readRegister s 0x034 d = s.led.ticks ∧
    (∀ k, 0x038 ≤ 4 * k → 4 * k ≤ 0x3FC → readRegister s (4 * k) d = 0) ∧
    (∀ k, 0xC00 ≤ 4 * k → 4 * k ≤ 0xFFC → readRegister s (4 * k) d = 0) ∧
    (∀ i < 256, readRegister s (0x400 + 4 * i) d = BitVec.ofNat 32 (s.sensor.txbuf.read i).toNat) ∧
    (∀ i < 256, readRegister s (0x800 + 4 * i) d =
      BitVec.ofNat 32 (if s.sensor.busy then d else s.sensor.rxbuf.read i).toNat)

/-- While BUSY is 1 a read of S_RXBUF gives the drawn byte, whichever it is, and the draw reaches no other register
(R76). -/
def Obligations.RxbufReadsAnyValueWhileBusy : Prop :=
  ∀ (s : State) (d d' : Byte), s.sensor.busy = true →
    (∀ i < 256, readRegister s (0x800 + 4 * i) d = BitVec.ofNat 32 d.toNat) ∧
    (∀ offset, offset < 0x800 ∨ 0xBFC < offset → readRegister s offset d = readRegister s offset d')

/-- The fields of S_STATUS (R23, R24, R27, R220). -/
def Obligations.SensorStatusFields : Prop :=
  ∀ (s : State) (d : Byte),
    let w := readRegister s 0x004 d
    (w.getLsbD 0 = true ↔ ∃ r, s.sensor.ctl = .run r) ∧
    w.getLsbD 1 = s.sensor.ovr ∧ w.getLsbD 2 = s.sensor.resolved ∧
    w.getLsbD 3 = s.sensor.initialized ∧ w.getLsbD 4 = s.sensor.devNotFound ∧
    w.getLsbD 5 = !s.config.busAvailable ∧
    w.extractLsb' 6 2 = 0 ∧ w.extractLsb' 12 20 = 0 ∧
    w.extractLsb' 8 4 = (match s.sensor.result with
      | .none => 0 | .ok => 1 | .short => 2 | .arg => 3 | .seq => 4
      | .illegal => 5 | .timeout => 6 | .nodev => 7 | .fatal => 8)

/-- The fields of L_STATUS (R33, R220). -/
def Obligations.LedStatusFields : Prop :=
  ∀ (s : State) (d : Byte),
    let w := readRegister s 0x024 d
    w.extractLsb' 0 2 = (match s.led.state with | .idle => 0 | .running => 1 | .fatal => 2) ∧
    w.getLsbD 2 = s.led.ledA ∧ w.getLsbD 3 = s.led.ledB ∧ w.getLsbD 4 = s.led.phase ∧
    w.getLsbD 5 = s.led.btnQ ∧ w.extractLsb' 6 2 = 0 ∧ w.extractLsb' 12 20 = 0 ∧
    w.extractLsb' 8 4 = (match s.led.lresult with
      | .none => 0 | .ok => 1 | .short => 2 | .arg => 3 | .seq => 4
      | .illegal => 5 | .timeout => 6 | .nodev => 7 | .fatal => 8)

/-- Writes to read-only registers and to reserved offsets are ignored (R74): only S_CMD, L_CMD and S_TXBUF take one (R73). -/
def Obligations.OtherWritesAreIgnored : Prop :=
  ∀ (s : State) (offset : Nat) (v : Word),
    offset ≠ 0x000 → offset ≠ 0x020 → (offset < 0x400 ∨ 0x7FC < offset) →
    writeRegister offset v s = .next s

/-- A write to S_TXBUF[i] stores v[7:0] there, changes no other entry and nothing else (R40, R73). -/
def Obligations.TxbufWriteStoresOneByte : Prop :=
  ∀ (s : State) (i : Nat) (v : Word), i < 256 → Memory.wf s.sensor.txbuf →
    ∃ m, writeRegister (0x400 + 4 * i) v s = .next { s with sensor := { s.sensor with txbuf := m } } ∧
      Memory.wf m ∧ m.read i = v.extractLsb' 0 8 ∧ ∀ j, j ≠ i → m.read j = s.sensor.txbuf.read j

/-! ## The command lifecycle -/

/-- A write to S_CMD while BUSY is dropped with OVR set, and the next one made while not BUSY clears OVR (R25). -/
def Obligations.CommandWhileBusyIsDropped : Prop :=
  ∀ (s : State) (w : Word),
    (s.sensor.busy = true →
      writeRegister 0x000 w s = .next { s with sensor := { s.sensor with ovr := true } }) ∧
    (s.sensor.busy = false → ∃ t, writeRegister 0x000 w s = .next t ∧ t.sensor.ovr = false)

/-- A word that spells no command completes at once with ILLEGAL and changes no other state, but for OVR, which every
write to S_CMD while not BUSY clears (R106, R25; that R25 and R155 prevail over R106 here is DEDUCED, log entry 14). -/
def Obligations.IllegalWordsReportIllegal : Prop :=
  ∀ (s : State) (w : Word),
    let op := (w.extractLsb' 0 8).toNat
    ((op = 0 ∨ 8 ≤ op) → s.sensor.busy = false → writeRegister 0x000 w s = .next (rejectedWith .illegal s)) ∧
    (op ≠ 1 → writeRegister 0x020 w s = .next { s with led := { s.led with lresult := .illegal } })

/-- The reject conditions of each sensor command, in order, and the whole state a reject leaves (R222, R221). -/
def Obligations.RejectConditionsInOrder : Prop :=
  ∀ (s : State) (reg : Byte) (len : Half), canTake s →
    (s.sensor.resolved = false → exec (.readReg reg len) s = .next (rejectedWith .seq s)) ∧
    (s.sensor.resolved = true → len.toNat < 1 ∨ 256 < len.toNat →
      exec (.readReg reg len) s = .next (rejectedWith .arg s)) ∧
    (s.sensor.resolved = false → exec (.writeReg reg len) s = .next (rejectedWith .seq s)) ∧
    (s.sensor.resolved = true → 255 < len.toNat →
      exec (.writeReg reg len) s = .next (rejectedWith .arg s)) ∧
    (s.sensor.resolved = true → exec .resolveAddr s = .next (rejectedWith .seq s)) ∧
    (s.sensor.initialized = true → exec .init s = .next (rejectedWith .seq s)) ∧
    (s.sensor.initialized = false → exec .readTemp s = .next (rejectedWith .seq s)) ∧
    (s.sensor.initialized = false → exec .awaitDrdy s = .next (rejectedWith .seq s)) ∧
    (s.sensor.initialized = false → exec .readMotion s = .next (rejectedWith .seq s))

/-- What an accepted command latches, for every sensor command (R155): the whole state after it, BUSY among it. -/
def Obligations.AcceptedCommandIsLatched : Prop :=
  ∀ (s : State) (reg : Byte) (len : Half), canTake s →
    (s.sensor.resolved = true → 1 ≤ len.toNat → len.toNat ≤ 256 →
      exec (.readReg reg len) s = .next (acceptedAs (.readReg reg len .start) s)) ∧
    (s.sensor.resolved = true → len.toNat ≤ 255 →
      exec (.writeReg reg len) s = .next (acceptedAs (.writeReg reg len .start)
        { s with sensor := { s.sensor with
            staging := s.sensor.staging.writeBytes 0 (reg :: s.sensor.txbuf.readBytes len.toNat) } })) ∧
    (s.sensor.resolved = false → exec .resolveAddr s = .next (acceptedAs (.resolveAddr (.high .start)) s)) ∧
    (s.sensor.initialized = false → exec .init s = .next (acceptedAs (.init .start) s)) ∧
    (s.sensor.initialized = true → exec .readTemp s = .next (acceptedAs (.readTemp .start) s)) ∧
    (s.sensor.initialized = true → exec .awaitDrdy s = .next (acceptedAs (.awaitDrdy .start) s)) ∧
    (s.sensor.initialized = true → exec .readMotion s = .next (acceptedAs (.readMotion (.await .start)) s))

/-- While BUS_AVAILABLE is false every decoded sensor command is rejected FATAL, FATAL_BUS is reported at the first
reject and at no later one, and the engine makes no bus traffic (R224, R27). That a reset too leaves the history as it
was is DEDUCED (log entry 13). -/
def Obligations.FatalBusIsReportedOnce : Prop :=
  ∀ s : State, Inv s → s.config.busAvailable = false →
    (∀ i, i ≠ .startLed → exec i s = .next
      { s with
        sensor := { s.sensor with ovr := false, result := .fatal, fatalReported := true }
        diag := if s.sensor.fatalReported then s.diag else s.diag ++ [{ kind := .fatalBus, value := 0 }] }) ∧
    (∀ d, (readRegister s 0x004 d).getLsbD 5 = true) ∧
    (∀ t, step s = .next t → t.sensor.busHistory = s.sensor.busHistory)

/-- The results of a command stay hidden until its complete step (R157): a SENSOR step after which the command still runs
changes no host-visible register but S_RXBUF, and a step that ends it reports a completion code (R221). -/
def Obligations.ResultsAppearAtCompletion : Prop :=
  ∀ (s : State) (a : BusDraw), s.sensor.busy = true →
    ((sensorStep a s).sensor.busy = true →
      ∀ offset d, readRegister (sensorStep a s) offset d = readRegister s offset d) ∧
    ((sensorStep a s).sensor.busy = false →
      (sensorStep a s).sensor.busHistory = s.sensor.busHistory ∧
      ((sensorStep a s).sensor.result = .ok ∨ (sensorStep a s).sensor.result = .short ∨
        (sensorStep a s).sensor.result = .timeout ∨ (sensorStep a s).sensor.result = .nodev))

/-- A running command does not see the host's later writes to S_TXBUF, nor OVR (R89, R40): its step gives the same with
any other contents there. -/
def Obligations.RunningCommandIgnoresTxbuf : Prop :=
  ∀ (c : Config) (d : BusDraw) (e : Sensor) (m : Memory) (b : Bool),
    stepSensor c d { e with txbuf := m, ovr := b } = { stepSensor c d e with txbuf := m, ovr := b }

/-- Between a command's steps, no step of another agent but a reset changes anything of the sensor engine other than
S_TXBUF and OVR while it runs (R25, R89, R136). -/
def Obligations.OtherAgentsLeaveTheRunningCommand : Prop :=
  ∀ (s t : State) (a : AgentStep) (rest : List AgentStep),
    s.schedule = a :: rest → (∀ d, a ≠ .sensor d) → (∀ tx rx st, a ≠ .reset tx rx st) →
    s.sensor.busy = true → step s = .next t →
    t.sensor = { s.sensor with txbuf := t.sensor.txbuf, ovr := t.sensor.ovr }

/-! ## Register access -/

/-- READ_REG from its acceptance to its completion, for every legal length and every answer (R160, R152): exactly two
transactions, and the whole state they leave. -/
def Obligations.ReadRegReadsTheRegister : Prop :=
  ∀ (s : State) (reg : Byte) (len : Half) (w r x : BusDraw), canTake s → s.sensor.resolved = true →
    1 ≤ len.toNat → len.toNat ≤ 256 →
    let data := r.data.take len.toNat
    let ok := decide (1 ≤ w.sent ∧ data.length = len.toNat)
    ∃ t, exec (.readReg reg len) s = .next t ∧ sensorSteps [w, r, x] t =
      { s with
        sensor :=
          { s.sensor with
            ovr := false, shortLatch := !ok, pollN := 0, lastCount := some data.length
            count := BitVec.ofNat 16 data.length
            result := if ok then .ok else .short
            rxbuf := s.sensor.rxbuf.writeBytes 0 data
            busHistory := s.sensor.busHistory ++
              [.bw s.sensor.addr [reg] false (min w.sent 1),
                .br s.sensor.addr len.toNat data.length data] } }

/-- A read that received `c` bytes writes entries 0 to c-1 of S_RXBUF and leaves the others (R152).
That further drawn bytes are ignored is DEDUCED (log entry 4), and the buffer's canonical form is the model's own DESIGN
CHOICE (log entry 3). -/
def Obligations.ReceivedBytesArePlacedInOrder : Prop :=
  ∀ (e : Sensor) (a : Addr) (n : Nat) (d : BusDraw), Memory.wf e.rxbuf →
    let r := busRead a n d e
    r.1 = min n d.data.length ∧ Memory.wf r.2.rxbuf ∧
    (∀ k (h : k < d.data.length), k < n → r.2.rxbuf.read k = d.data[k]) ∧
    (∀ k, r.1 ≤ k → r.2.rxbuf.read k = e.rxbuf.read k)

/-- WRITE_REG from its acceptance to its completion (R170): exactly one released transaction of the register number and
the payload bytes S_TXBUF held at acceptance, and the whole state it leaves. -/
def Obligations.WriteRegWritesThePayload : Prop :=
  ∀ (s : State) (reg : Byte) (len : Half) (w x : BusDraw), canTake s → s.sensor.resolved = true →
    len.toNat ≤ 255 → Memory.wf s.sensor.staging →
    let bytes := reg :: s.sensor.txbuf.readBytes len.toNat
    let sent := min w.sent (1 + len.toNat)
    ∃ t, exec (.writeReg reg len) s = .next t ∧ sensorSteps [w, x] t =
      { s with
        sensor :=
          { s.sensor with
            ovr := false, shortLatch := decide (sent ≠ 1 + len.toNat), pollN := 0, lastCount := some sent
            count := BitVec.ofNat 16 sent
            result := if sent = 1 + len.toNat then .ok else .short
            staging := s.sensor.staging.writeBytes 0 bytes
            busHistory := s.sensor.busHistory ++ [.bw s.sensor.addr bytes true sent] } }

/-! ## Discovery and initialisation -/

/-- RESOLVE_ADDR from its acceptance to its completion (R180, R181, R182): the high candidate alone if its identity read
is not short and matches; else the low one too, which becomes the active address whether or not it matches. -/
def Obligations.ResolveAddrChoosesTheAddress : Prop :=
  ∀ (s : State) (w r w' r' x : BusDraw), canTake s → s.sensor.resolved = false →
    Memory.wf s.sensor.rxbuf →
    let c := s.config
    ∃ t, exec .resolveAddr s = .next t ∧
      (answered w r = some c.whoAmIValue →
        sensorSteps [w, r, x] t =
          { s with
            sensor :=
              { s.sensor with
                ovr := false, shortLatch := false, pollN := 0, lastCount := some 1, count := 1
                addr := c.addrHigh, resolved := true, devNotFound := false, result := .ok
                rxbuf := readBuffer s.sensor.rxbuf [(w, r)]
                busHistory := s.sensor.busHistory ++ readEvents c.addrHigh c.regWhoAmI w r } }) ∧
      (answered w r ≠ some c.whoAmIValue →
        let nf := decide (answered w' r' ≠ some c.whoAmIValue)
        let short := (answered w r).isNone || (answered w' r').isNone
        let received := (r'.data.take 1).length
        sensorSteps [w, r, w', r', x] t =
          { s with
            sensor :=
              { s.sensor with
                ovr := false, shortLatch := short, pollN := 0
                lastCount := some received, count := BitVec.ofNat 16 received
                addr := c.addrLow, resolved := true, devNotFound := nf
                result := if nf then .nodev else if short then .short else .ok
                rxbuf := readBuffer s.sensor.rxbuf [(w, r), (w', r')]
                busHistory := s.sensor.busHistory ++ readEvents c.addrHigh c.regWhoAmI w r ++
                  readEvents c.addrLow c.regWhoAmI w' r' } })

/-- INIT with an active address (R185, R187): exactly the configuration writes, in order, one released two-byte
transaction each, and the whole state they leave, for any INIT_WRITES. -/
def Obligations.InitWritesTheConfiguration : Prop :=
  ∀ (s : State) (ws : List BusDraw) (x : BusDraw), canTake s → s.sensor.initialized = false →
    s.sensor.resolved = true → ws.length = s.config.initWrites.length → Memory.wf s.sensor.staging →
    ∃ t, exec .init s = .next t ∧ sensorSteps (ws ++ [x]) t =
      { s with
        sensor :=
          { s.sensor with
            ovr := false, shortLatch := someShort ws, pollN := 0, lastCount := lastSent none ws
            count := committedCount s.sensor.count (lastSent none ws)
            initialized := true
            result := if someShort ws then .short else .ok
            staging := initStaging s.sensor.staging s.config.initWrites
            busHistory := s.sensor.busHistory ++ initEvents s.sensor.addr s.config.initWrites ws } }

/-- INIT without an active address resolves first (R185): the identity reads of RESOLVE_ADDR, then the configuration
writes to the address chosen, silently so in the degraded mode, which its result and flag report (R182, R187). -/
def Obligations.InitResolvesThenWrites : Prop :=
  ∀ (s : State) (w r w' r' : BusDraw) (ws : List BusDraw) (x : BusDraw), canTake s →
    s.sensor.initialized = false → s.sensor.resolved = false →
    ws.length = s.config.initWrites.length →
    Memory.wf s.sensor.staging → Memory.wf s.sensor.rxbuf →
    let c := s.config
    ∃ t, exec .init s = .next t ∧
      (answered w r = some c.whoAmIValue →
        sensorSteps ([w, r] ++ ws ++ [x]) t =
          { s with
            sensor :=
              { s.sensor with
                ovr := false, shortLatch := someShort ws, pollN := 0, lastCount := lastSent (some 1) ws
                count := committedCount s.sensor.count (lastSent (some 1) ws)
                addr := c.addrHigh, resolved := true, devNotFound := false, initialized := true
                result := if someShort ws then .short else .ok
                rxbuf := readBuffer s.sensor.rxbuf [(w, r)]
                staging := initStaging s.sensor.staging c.initWrites
                busHistory := s.sensor.busHistory ++ readEvents c.addrHigh c.regWhoAmI w r ++
                  initEvents c.addrHigh c.initWrites ws } }) ∧
      (answered w r ≠ some c.whoAmIValue →
        let nf := decide (answered w' r' ≠ some c.whoAmIValue)
        let short := (answered w r).isNone || (answered w' r').isNone || someShort ws
        let last := lastSent (some (r'.data.take 1).length) ws
        sensorSteps ([w, r, w', r'] ++ ws ++ [x]) t =
          { s with
            sensor :=
              { s.sensor with
                ovr := false, shortLatch := short, pollN := 0
                lastCount := last, count := committedCount s.sensor.count last
                addr := c.addrLow, resolved := true, devNotFound := nf, initialized := true
                result := if nf then .nodev else if short then .short else .ok
                rxbuf := readBuffer s.sensor.rxbuf [(w, r), (w', r')]
                staging := initStaging s.sensor.staging c.initWrites
                busHistory := s.sensor.busHistory ++ readEvents c.addrHigh c.regWhoAmI w r ++
                  readEvents c.addrLow c.regWhoAmI w' r' ++ initEvents c.addrLow c.initWrites ws } })

/-! ## Sampling -/

/-- READ_TEMP from its acceptance to its completion (R189, R190, R191), for every answer: a short read leaves temp16. -/
def Obligations.ReadTempDecodesTheByte : Prop :=
  ∀ (s : State) (w r x : BusDraw), canTake s → s.sensor.initialized = true → Memory.wf s.sensor.rxbuf →
    let received := (r.data.take 1).length
    ∃ t, exec .readTemp s = .next t ∧ sensorSteps [w, r, x] t =
      { s with
        sensor :=
          { s.sensor with
            ovr := false, shortLatch := (answered w r).isNone, pollN := 0, lastCount := some received
            count := BitVec.ofNat 16 received
            temp16 := (match answered w r with
              | some raw =>
                if raw.toNat < 128 then BitVec.ofInt 16 (25 + raw.toNat)
                else BitVec.ofInt 16 (25 - (256 - raw.toNat))
              | none => s.sensor.temp16)
            result := (match answered w r with | some _ => .ok | none => .short)
            rxbuf := readBuffer s.sensor.rxbuf [(w, r)]
            busHistory := s.sensor.busHistory ++ readEvents s.sensor.addr s.config.regTemp w r } }

/-- The temperature register holds the decoded value exactly, and it is in [-103, 152] (R190, R30). -/
def Obligations.TemperatureDecodeIsExact : Prop :=
  ∀ (c : Config) (raw : Byte), c.inRange = true →
    (signed16 (tempDecode c raw)).toInt = 25 + raw.toInt ∧
    -103 ≤ tempDecode c raw ∧ tempDecode c raw ≤ 152

/-- AWAIT_DRDY from its acceptance to its completion (R193, R195): after any number of polls that do not see data-ready,
fewer than POLL_LIMIT, and one that does. -/
def Obligations.AwaitDrdyEndsAtTheReadyPoll : Prop :=
  ∀ (s : State) (polls : List (BusDraw × BusDraw)) (last : BusDraw × BusDraw) (x : BusDraw),
    canTake s → s.sensor.initialized = true → s.config.inRange = true → Memory.wf s.sensor.rxbuf →
    (∀ p ∈ polls, sawReady s.config p = false) → sawReady s.config last = true →
    (∀ l, s.config.pollLimit = some l → polls.length < l) →
    let all := polls ++ [last]
    ∃ t, exec .awaitDrdy s = .next t ∧ sensorSteps (pollAnswers all ++ [x]) t =
      { s with
        sensor :=
          { s.sensor with
            ovr := false, shortLatch := polls.any pollShort
            pollN := BitVec.ofNat 32 (min all.length (2 ^ 32 - 1))
            lastCount := some 1, count := 1
            result := if polls.any pollShort then .short else .ok
            rxbuf := readBuffer s.sensor.rxbuf all
            busHistory := s.sensor.busHistory ++ pollEvents s.config s.sensor.addr all } }

/-- With a bounded POLL_LIMIT, AWAIT_DRDY and READ_MOTION end with TIMEOUT after that many polls without data-ready, with
the same transactions (R193, R194, R197). -/
def Obligations.BoundedPollsTimeOut : Prop :=
  ∀ (s : State) (polls : List (BusDraw × BusDraw)) (last : BusDraw × BusDraw) (x : BusDraw),
    canTake s → s.sensor.initialized = true → s.config.inRange = true → Memory.wf s.sensor.rxbuf →
    let all := polls ++ [last]
    (∀ p ∈ all, sawReady s.config p = false) → s.config.pollLimit = some all.length →
    let received := (last.2.data.take 1).length
    let final : State :=
      { s with
        sensor :=
          { s.sensor with
            ovr := false, shortLatch := all.any pollShort
            pollN := BitVec.ofNat 32 all.length
            lastCount := some received, count := BitVec.ofNat 16 received
            result := .timeout
            rxbuf := readBuffer s.sensor.rxbuf all
            busHistory := s.sensor.busHistory ++ pollEvents s.config s.sensor.addr all } }
    (∃ t, exec .awaitDrdy s = .next t ∧ sensorSteps (pollAnswers all ++ [x]) t = final) ∧
    (∃ t, exec .readMotion s = .next t ∧ sensorSteps (pollAnswers all ++ [x]) t = final)

/-- With POLL_LIMIT unbounded, AWAIT_DRDY and READ_MOTION poll for ever while no poll sees data-ready, a short poll
included whatever its byte (R193, R194, R195, R267): after any number of such polls, and in the midst of the next, BUSY
is still 1 and the polls are all the traffic there has been. -/
def Obligations.UnboundedPollingHangs : Prop :=
  ∀ (s : State) (polls : List (BusDraw × BusDraw)) (next : Option BusDraw), canTake s →
    s.sensor.initialized = true → s.config.pollLimit = none → Memory.wf s.sensor.rxbuf →
    (∀ p ∈ polls, sawReady s.config p = false) →
    let c := s.config
    let a := s.sensor.addr
    let answers := pollAnswers polls ++ next.toList
    let traffic := s.sensor.busHistory ++ pollEvents c a polls ++
      (next.map (fun w => .bw a [c.regStatus] false (min w.sent 1))).toList
    (∃ t, exec .awaitDrdy s = .next t ∧ (sensorSteps answers t).sensor.busy = true ∧
      (sensorSteps answers t).sensor.busHistory = traffic) ∧
    (∃ t, exec .readMotion s = .next t ∧ (sensorSteps answers t).sensor.busy = true ∧
      (sensorSteps answers t).sensor.busHistory = traffic)

/-- READ_MOTION from its acceptance to its completion (R197, R198, R199): the polls, then exactly twelve transactions in
the fixed order, each axis updated only if both its reads were not short, and the whole state they leave. -/
def Obligations.ReadMotionReadsTheAxes : Prop :=
  ∀ (s : State) (polls : List (BusDraw × BusDraw)) (last xl xh yl yh zl zh : BusDraw × BusDraw) (x : BusDraw),
    canTake s → s.sensor.initialized = true → s.config.inRange = true → Memory.wf s.sensor.rxbuf →
    (∀ p ∈ polls, sawReady s.config p = false) → sawReady s.config last = true →
    (∀ l, s.config.pollLimit = some l → polls.length < l) →
    let c := s.config
    let a := s.sensor.addr
    let all := polls ++ [last]
    let axes := [xl, xh, yl, yh, zl, zh]
    let axis := fun (lo hi : BusDraw × BusDraw) (old : Half) =>
      match answered lo.1 lo.2, answered hi.1 hi.2 with
      | some l, some h => BitVec.ofInt 16 (decode14 (BitVec.ofNat 16 (h.toNat * 256 + l.toNat)))
      | _, _ => old
    let short := (polls ++ axes).any pollShort
    let received := (zh.2.data.take 1).length
    ∃ t, exec .readMotion s = .next t ∧ sensorSteps (pollAnswers (all ++ axes) ++ [x]) t =
      { s with
        sensor :=
          { s.sensor with
            ovr := false, shortLatch := short
            pollN := BitVec.ofNat 32 (min all.length (2 ^ 32 - 1))
            lastCount := some received, count := BitVec.ofNat 16 received
            acc16 :=
              { x := axis xl xh s.sensor.acc16.x, y := axis yl yh s.sensor.acc16.y
                z := axis zl zh s.sensor.acc16.z }
            result := if short then .short else .ok
            rxbuf := readBuffer s.sensor.rxbuf (all ++ axes)
            busHistory := s.sensor.busHistory ++ pollEvents c a all ++
              (readEvents a c.regXL xl.1 xl.2 ++ readEvents a c.regXH xh.1 xh.2 ++
                readEvents a c.regYL yl.1 yl.2 ++ readEvents a c.regYH yh.1 yh.2 ++
                readEvents a c.regZL zl.1 zl.2 ++ readEvents a c.regZH zh.1 zh.2) } }

/-- The 14-bit decode is the signed word divided by 4, rounded toward zero, in [-8192, 8191], and fits its register
(R196, R31); of a left-aligned sample it is the sample (R200). -/
def Obligations.DecodeRoundsTowardZero : Prop :=
  (∀ w : Half, decode14 w = Int.tdiv w.toInt 4 ∧ -8192 ≤ decode14 w ∧ decode14 w ≤ 8191 ∧
    (signed16 (decode14 w)).toInt = decode14 w) ∧
  ∀ v : Int, -8192 ≤ v → v ≤ 8191 → decode14 (BitVec.ofInt 16 (v * 4)) = v

/-! ## The LED engine -/

/-- START_LED in each state of the LED engine, and the whole state it leaves (R121, R225). -/
def Obligations.StartLedByState : Prop :=
  ∀ s : State,
    let p := BitVec.ofNat 32 (s.config.baseDelay * (s.led.pattern.toNat + 1))
    (s.led.state = .idle → s.config.irqAvailable = true → exec .startLed s = .next
      { s with
        led :=
          { s.led with state := .running, phase := false, period := p, ticks := p, lresult := .ok } }) ∧
    (s.led.state = .idle → s.config.irqAvailable = false → exec .startLed s = .next
      { s with
        led := { s.led with state := .fatal, lresult := .fatal }
        diag := s.diag ++ [{ kind := .fatalIrq, value := 0 }] }) ∧
    (s.led.state = .running → exec .startLed s = .next { s with led := { s.led with lresult := .seq } }) ∧
    (s.led.state = .fatal → exec .startLed s = .next { s with led := { s.led with lresult := .fatal } })

/-- From the reset values the first period is exactly BASE_DELAY (R122): every idle state of the invariant has pattern 0. -/
def Obligations.FirstPeriodIsBaseDelay : Prop :=
  ∀ s : State, Inv s → s.led.state = .idle → s.config.irqAvailable = true →
    ∃ t, exec .startLed s = .next t ∧ t.led.state = .running ∧ t.led.period.toNat = s.config.baseDelay ∧
      t.led.ticks.toNat = s.config.baseDelay ∧ t.led.ledA = false ∧ t.led.ledB = false

/-- The BTN step and the press handler (R123, R124, R125, R126, R128), and the whole state they leave. -/
def Obligations.ButtonStepCountsRawEdges : Prop :=
  ∀ (s : State) (level : Bool), s.config.inRange = true → s.led.pattern.toNat < s.config.maxPattern →
    let edge := s.led.btnQ = false ∧ level = true
    let n := (s.led.debounce.toNat + 1) % 2 ^ 32
    let p := BitVec.ofNat 32 ((s.led.pattern.toNat + 1) % s.config.maxPattern)
    (¬edge ∨ s.led.state ≠ .running → btnStep level s = { s with led := { s.led with btnQ := level } }) ∧
    (edge → s.led.state = .running → n % 2 = 1 → btnStep level s =
      { s with led := { s.led with btnQ := level, debounce := BitVec.ofNat 32 n } }) ∧
    (edge → s.led.state = .running → n % 2 = 0 → btnStep level s =
      { s with
        led := { s.led with btnQ := level, debounce := BitVec.ofNat 32 n, pattern := p }
        diag := s.diag ++ [{ kind := .pattern, value := p }] })

/-- Debounce parity over any run of BTN steps and BLINK ticks while RUNNING (R127): K raw edges add K to `debounce`, every
second one is a qualifying press, and `pattern` moves on by their number modulo MAX_PATTERN. -/
def Obligations.EverySecondRawEdgeIsAPress : Prop :=
  ∀ (s : State) (l : List (Option Bool)), s.config.inRange = true → s.led.state = .running →
    s.led.pattern.toNat < s.config.maxPattern →
    let k := rawEdges s.led.btnQ l
    let presses := (s.led.debounce.toNat + k) / 2 - s.led.debounce.toNat / 2
    let t := ledSteps l s
    t.led.debounce.toNat = (s.led.debounce.toNat + k) % 2 ^ 32 ∧
    t.led.pattern.toNat = (s.led.pattern.toNat + presses) % s.config.maxPattern ∧
    ∃ reports, t.diag = s.diag ++ reports ∧ reports.length = presses ∧
      ∀ r ∈ reports, r.kind = .pattern

/-- The blink period (R129): BASE_DELAY * (p + 1) without overflow, strictly increasing, BASE_DELAY at pattern 0. -/
def Obligations.BlinkPeriodIncreases : Prop :=
  ∀ (c : Config) (p q : Word), c.inRange = true → p.toNat < c.maxPattern → q.toNat < c.maxPattern →
    (periodOf c p).toNat = c.baseDelay * (p.toNat + 1) ∧ (periodOf c 0).toNat = c.baseDelay ∧
    (p.toNat < q.toNat → (periodOf c p).toNat < (periodOf c q).toNat)

/-- The BLINK tick in each case, and the whole state it leaves (R131, R130): the pattern is sampled at the end of the
second half-cycle alone. That a tick while not RUNNING, which the spec does not have, changes nothing is DESIGN CHOICE
(log entry 5), and so is the wrap of a tick at `ticks` 0, which R131 rules out of every run (log entry 7). -/
def Obligations.BlinkTickByPhase : Prop :=
  ∀ s : State,
    let p := BitVec.ofNat 32 (s.config.baseDelay * (s.led.pattern.toNat + 1))
    (s.led.state ≠ .running → blinkTick s = s) ∧
    (s.led.state = .running → s.led.ticks ≠ 1 →
      blinkTick s = { s with led := { s.led with ticks := s.led.ticks - 1 } }) ∧
    (s.led.state = .running → s.led.ticks = 1 → s.led.phase = false → blinkTick s =
      { s with
        led := { s.led with ledA := true, ledB := false, phase := true, ticks := s.led.period } }) ∧
    (s.led.state = .running → s.led.ticks = 1 → s.led.phase = true → blinkTick s =
      { s with
        led := { s.led with ledA := false, ledB := true, phase := false, period := p, ticks := p } })

/-- A half-cycle lasts `ticks` ticks whatever the button does meanwhile (R130, R132, R133, R134): before its last tick
nothing but the countdown moves, and its last tick makes the update, latching the pattern of that moment if the cycle
ends. -/
def Obligations.HalfCycleLastsItsTicks : Prop :=
  ∀ (s : State) (l : List (Option Bool)), s.led.state = .running → 1 ≤ s.led.ticks.toNat →
    let t := ledSteps l s
    let u := blinkTick t
    (tickCount l < s.led.ticks.toNat →
      t.led.state = .running ∧ t.led.ticks.toNat = s.led.ticks.toNat - tickCount l ∧
      t.led.period = s.led.period ∧ t.led.phase = s.led.phase ∧
      t.led.ledA = s.led.ledA ∧ t.led.ledB = s.led.ledB) ∧
    (tickCount l + 1 = s.led.ticks.toNat → s.led.phase = false →
      u.led.ledA = true ∧ u.led.ledB = false ∧ u.led.phase = true ∧
      u.led.period = s.led.period ∧ u.led.ticks = s.led.period) ∧
    (tickCount l + 1 = s.led.ticks.toNat → s.led.phase = true →
      u.led.ledA = false ∧ u.led.ledB = true ∧ u.led.phase = false ∧
      u.led.period = periodOf s.config t.led.pattern ∧ u.led.ticks = periodOf s.config t.led.pattern)

/-- The LED timeline of R132 with the pattern held: from the start of a cycle of period P, at tick 2*P*k + j the LEDs, the
phase and the countdown are those of place j in cycle k. -/
def Obligations.LedTimelineOfAHeldPattern : Prop :=
  ∀ (s : State) (k j : Nat), s.config.inRange = true → s.led.state = .running →
    s.led.pattern.toNat < s.config.maxPattern → s.led.phase = false →
    s.led.period = periodOf s.config s.led.pattern → s.led.ticks = s.led.period →
    let P := s.config.baseDelay * (s.led.pattern.toNat + 1)
    let t := ledSteps (List.replicate (2 * P * k + j) none) s
    (j < P → t.led.phase = false ∧ t.led.ticks.toNat = P - j ∧
      (k = 0 → t.led.ledA = s.led.ledA ∧ t.led.ledB = s.led.ledB) ∧
      (k ≠ 0 → t.led.ledA = false ∧ t.led.ledB = true)) ∧
    (P ≤ j → j < 2 * P → t.led.phase = true ∧ t.led.ticks.toNat = 2 * P - j ∧
      t.led.ledA = true ∧ t.led.ledB = false)

/-- Only START_LED leaves IDLE, and only a reset leaves RUNNING or FATAL (R120, R135). -/
def Obligations.LedStateLeftOnlyAsStated : Prop :=
  ∀ (s t : State) (a : AgentStep) (rest : List AgentStep),
    s.schedule = a :: rest → (∀ tx rx st, a ≠ .reset tx rx st) → step s = .next t →
    (s.led.state = .running → t.led.state = .running) ∧
    (s.led.state = .fatal → t.led.state = .fatal) ∧
    (s.led.state = .idle → t.led.state ≠ .idle →
      ∃ d w ops, a = .host d ∧ s.program = .memWrite (s.config.baseAddr + 0x020) 4 w :: ops ∧
        w.extractLsb' 0 8 = 0x01)

/-- The two engines share nothing (R136): SENSOR steps and the LED engine's steps can be taken in either order, and the
commands of one engine leave the other as it is. -/
def Obligations.EnginesAreIndependent : Prop :=
  ∀ (s : State) (d : BusDraw) (level : Bool),
    sensorStep d (btnStep level s) = btnStep level (sensorStep d s) ∧
    sensorStep d (blinkTick s) = blinkTick (sensorStep d s) ∧
    (∀ t, exec .startLed s = .next t → t.sensor = s.sensor) ∧
    (∀ i t, i ≠ .startLed → exec i s = .next t → t.led = s.led)

/-! ## Whole-machine rules -/

/-- Reset gives every element its value of R50 from any state, keeps the straps and parameters, and commits no result
(R250, R252, R253). R50 leaves the buffers' contents unspecified: each entry holds the byte drawn for it, whichever it
is. -/
def Obligations.ResetGivesTheResetValues : Prop :=
  ∀ (s : State) (tx rx st : List Byte) (d : Byte), s.config.inRange = true →
    let t := resetBlock tx rx st s
    t.led = { state := .idle, ledA := false, ledB := false, phase := false, btnQ := true, lresult := .none,
              pattern := 0, debounce := 0, period := 0, ticks := 0 } ∧
    t.sensor =
      { t.sensor with
        ovr := false, resolved := false, initialized := false, devNotFound := false, result := .none
        count := 0, addr := 0, temp16 := 0, acc16 := { x := 0, y := 0, z := 0 }, ctl := .idle
        shortLatch := false, pollN := 0, lastCount := none, fatalReported := false } ∧
    (∀ i (h : i < tx.length), i < 256 → t.sensor.txbuf.read i = tx[i]) ∧
    (∀ i (h : i < rx.length), i < 256 → t.sensor.rxbuf.read i = rx[i]) ∧
    (∀ i (h : i < st.length), i < 256 → t.sensor.staging.read i = st[i]) ∧
    t.config = s.config ∧
    readRegister t 0x004 d = (if s.config.busAvailable then 0x00000000 else 0x00000020) ∧
    readRegister t 0x024 d = 0x00000020

/-- RESOLVED, INITIALIZED and DEV_NOT_FOUND, once 1, and then the active address, stay until a reset (R26, R183, R253). -/
def Obligations.PersistentFlagsStayUntilReset : Prop :=
  ∀ (s t : State) (a : AgentStep) (rest : List AgentStep), Inv s →
    s.schedule = a :: rest → (∀ tx rx st, a ≠ .reset tx rx st) → step s = .next t →
    (s.sensor.resolved = true → t.sensor.resolved = true ∧ t.sensor.addr = s.sensor.addr) ∧
    (s.sensor.initialized = true → t.sensor.initialized = true) ∧
    (s.sensor.devNotFound = true → t.sensor.devNotFound = true) ∧
    (s.sensor.fatalReported = true → t.sensor.fatalReported = true)

/-- Every step keeps the machine's invariant: the ranges of R28 to R32, R35, R37 and R38, the bounds of R151 on every
event, the candidates of R77, the levels of R132, and the conditions a command was accepted under (R222). -/
def Obligations.EveryStepKeepsTheInvariants : Prop :=
  ∀ s t : State, Inv s → step s = .next t → Inv t

/-- The machine's invariant holds after reset, in every configuration R9 allows. The model's choice of reset values for
the buffers is log entry 3. -/
def Obligations.ResetMeetsTheInvariants : Prop :=
  Inv State.reset ∧
  ∀ (s : State) (tx rx st : List Byte), s.config.inRange = true →
    (∀ v ∈ s.sensor.busHistory, eventOk s.config v) → Inv (resetBlock tx rx st s)

/-- Nothing comes between a register read's held write and its read (R78, R91): while the read is pending the held write is
the history's last event, whatever the other agents do. -/
def Obligations.HeldWriteStaysLast : Prop :=
  ∀ s t : State, Inv s → heldIsLast s → step s = .next t → heldIsLast t

/-- After a held write the next SENSOR step is the read at the same address, issued whatever the held write sent (R78,
R158). -/
def Obligations.ReadFollowsItsHeldWrite : Prop :=
  ∀ (s : State) (p : PendingRead) (d : BusDraw), pendingRead s.config s.sensor = some p →
    (sensorStep d s).sensor.busHistory =
      s.sensor.busHistory ++ [.br p.a7 p.n (d.data.take p.n).length (d.data.take p.n)] ∧
    pendingRead s.config (sensorStep d s).sensor = none ∧ (sensorStep d s).sensor.busy = true

/-- The bus history only grows, by at most one event a step, and only by a SENSOR step of a running command (R153, R156,
R84). That a reset keeps it is DEDUCED (log entry 13). -/
def Obligations.OnlySensorStepsMakeTraffic : Prop :=
  ∀ s t : State, step s = .next t →
    t.sensor.busHistory = s.sensor.busHistory ∨
    ∃ (v : BusEvent) (d : BusDraw) (rest : List AgentStep), t.sensor.busHistory = s.sensor.busHistory ++ [v] ∧
      s.schedule = .sensor d :: rest ∧ s.sensor.busy = true

/-- The diagnostic port's events, and when each is appended (R233, R128). That a reset keeps them is DEDUCED (log entry
13). -/
def Obligations.DiagnosticEventsAreTheThree : Prop :=
  ∀ s t : State, step s = .next t →
    t.diag = s.diag ∨
    (∃ rest, s.schedule = .btn true :: rest ∧ s.led.btnQ = false ∧ s.led.state = .running ∧
      t.led.debounce.toNat % 2 = 0 ∧ t.diag = s.diag ++ [{ kind := .pattern, value := t.led.pattern }]) ∨
    (s.led.state = .idle ∧ t.led.state = .fatal ∧ t.diag = s.diag ++ [{ kind := .fatalIrq, value := 0 }]) ∨
    (s.sensor.fatalReported = false ∧ t.sensor.fatalReported = true ∧ t.sensor.result = .fatal ∧
      t.diag = s.diag ++ [{ kind := .fatalBus, value := 0 }])

/-! ## The host's program -/

/-- WAITIDLE repeats `RD 0x004 -> s` until `s[0]` = 0, one read a turn, and does nothing else (R109). That a turn is one
read is DEDUCED (log entry 10). -/
def Obligations.WaitIdleWaitsForBusy : Prop :=
  ∀ (s : State) (ops : List HostOp) (d : Byte), s.program = .waitIdle :: ops →
    let rd := s.reads ++ [{ name := "s", value := readRegister s 0x004 d }]
    (s.sensor.busy = true → hostStep d s = .next { s with reads := rd }) ∧
    (s.sensor.busy = false → hostStep d s = .next { s with reads := rd, program := ops })

/-- A command's pseudo-instruction issues that command (R110): the host's step is exec of it, past that access. -/
def Obligations.CommandSyntaxIssuesTheCommand : Prop :=
  ∀ (s : State) (i : Instr) (ops : List HostOp) (d : Byte), s.program = opCommand s.config i :: ops →
    hostStep d s = exec i { s with program := ops }

/-- The payload's part of WRITE_REG's expansion puts it into S_TXBUF[0..n-1] and nothing anywhere else (R110, R260). -/
def Obligations.PayloadSyntaxFillsTxbuf : Prop :=
  ∀ (s : State) (payload : List Byte) (ops : List HostOp) (draws : List Byte),
    s.config.inRange = true → payload.length ≤ 256 → Memory.wf s.sensor.txbuf →
    draws.length = payload.length →
    s.program = opsPayload s.config 0 payload ++ ops → s.schedule = draws.map AgentStep.host →
    ∃ m, Host.Core.run core payload.length s =
        .next { s with sensor := { s.sensor with txbuf := m }, program := ops, schedule := [] } ∧
      m.readBytes payload.length = payload ∧ ∀ j, payload.length ≤ j → m.read j = s.sensor.txbuf.read j

/-- Every run of one sensor or LED command from an idle engine ends (R272), if the bus answers often enough (the premise
BUS_ANSWERS, R151) and a command that polls has a bounded POLL_LIMIT (R193, R194): whatever the other agents do between. -/
def Obligations.CommandRunsEnd : Prop :=
  ∀ (s : State) (i : Instr) (d : Byte) (rest : List AgentStep) (l : Nat), Inv s → noHostError s →
    s.sensor.busy = false → s.program = [opCommand s.config i] → s.schedule = .host d :: rest →
    (s.config.pollLimit = some l ∨ i ≠ .awaitDrdy ∧ i ≠ .readMotion) →
    busAnswers (2 * l + s.config.initWrites.length + 15) rest →
    ∃ t, Host.Core.run core (rest.length + 1) s = .next t ∧ runOver t

/-! ## Buffers -/

/-- Buffers in the canonical form that read the same are equal, and every write keeps the form (the form is the model's
own, log entry 3). -/
def Obligations.BuffersThatReadTheSameAreEqual : Prop :=
  (∀ m n : Memory, Memory.wf m → Memory.wf n → (∀ i, m.read i = n.read i) → m = n) ∧
  (∀ (m : Memory) (i : Nat) (v : Byte), Memory.wf m → Memory.wf (m.write i v) ∧
    ∀ j, (m.write i v).read j = if j = i then v else m.read j)
end

