-- ==== Sys2Proof/Laws/Memory.lean ====
section
/-! SUPPORT. What the byte buffers' operations do: reads after writes, and the canonical form they keep. -/

namespace Sys2Proof.Machine

theorem Memory.read_nil (i : Nat) : Memory.read [] i = Memory.blank := rfl

theorem Memory.read_cons (a : Nat) (b : Byte) (m : Memory) (i : Nat) :
    Memory.read ((a, b) :: m) i = if a = i then b else Memory.read m i := rfl

theorem Memory.wf_nil : Memory.wf [] := ⟨.nil, by simp⟩

theorem Memory.below_nil (n : Nat) : Memory.below n [] := by simp

/-- A pair list whose indexes are all above `i` reads blank at `i`. -/
theorem Memory.read_of_above {m : Memory} {i : Nat} (h : ∀ c ∈ m, i < c.1) :
    Memory.read m i = Memory.blank := by
  induction m with
  | nil => rfl
  | cons c m ih =>
    have hc := h c (by simp)
    rw [show c = (c.1, c.2) from rfl, Memory.read_cons, if_neg (by omega)]
    exact ih fun d hd => h d (by simp [hd])

/-- Writing puts the byte at its own index and nowhere else. -/
theorem Memory.read_write {m : Memory} (h : Memory.wf m) (i : Nat) (v : Byte) (j : Nat) :
    (Memory.write m i v).read j = if j = i then v else m.read j := by
  induction m with
  | nil =>
    unfold Memory.write Memory.cons
    split
    · rename_i hv; subst hv; simp [Memory.read]
    · simp [Memory.read, eq_comm]
  | cons c m ih =>
    obtain ⟨a, b⟩ := c
    have hm : Memory.wf m := ⟨h.1.of_cons, fun c hc => h.2 c (by simp [hc])⟩
    have habove : ∀ c ∈ m, a < c.1 := fun c hc => (List.pairwise_cons.1 h.1).1 c hc
    unfold Memory.write Memory.cons
    split
    · rename_i hia
      have hnone : Memory.read ((a, b) :: m) i = Memory.blank :=
        Memory.read_of_above fun c hc => by
          rcases List.mem_cons.1 hc with rfl | hc
          · exact hia
          · exact hia.trans (habove c hc)
      split
      · rename_i hv
        by_cases hj : j = i
        · subst hj; simp [hnone, hv]
        · simp [hj]
      · by_cases hj : j = i
        · subst hj; simp [Memory.read]
        · simp [Memory.read_cons, hj, Ne.symm hj]
    · split
      · rename_i hia
        subst hia
        have hnone : Memory.read m i = Memory.blank := Memory.read_of_above habove
        split
        · rename_i hv
          by_cases hj : j = i
          · subst hj; simp [hnone, hv]
          · simp [Memory.read_cons, hj, Ne.symm hj]
        · by_cases hj : j = i
          · subst hj; simp [Memory.read]
          · simp [Memory.read_cons, hj, Ne.symm hj]
      · rename_i h1 h2
        by_cases hj : j = i
        · subst hj
          rw [Memory.read_cons, if_neg (by omega), ih hm]; simp
        · rw [Memory.read_cons, Memory.read_cons, ih hm]; simp [hj]

/-- Every pair of a written buffer is the new one or an old one. -/
theorem Memory.mem_write {m : Memory} {i : Nat} {v : Byte} {c : Host.Cell} (h : c ∈ Memory.write m i v) :
    (c = (i, v) ∧ v ≠ Memory.blank) ∨ c ∈ m := by
  induction m with
  | nil =>
    unfold Memory.write Memory.cons at h
    split at h
    · simp at h
    · simp at h; exact .inl ⟨h, by assumption⟩
  | cons d m ih =>
    obtain ⟨a, b⟩ := d
    unfold Memory.write Memory.cons at h
    split at h
    · split at h
      · exact .inr h
      · rcases List.mem_cons.1 h with h | h
        · exact .inl ⟨h, by assumption⟩
        · exact .inr h
    · split at h
      · split at h
        · exact .inr (by simp [h])
        · rcases List.mem_cons.1 h with h | h
          · exact .inl ⟨h, by assumption⟩
          · exact .inr (by simp [h])
      · rcases List.mem_cons.1 h with h | h
        · exact .inr (by simp [h])
        · rcases ih h with h | h
          · exact .inl h
          · exact .inr (by simp [h])

/-- A write keeps the canonical form. -/
theorem Memory.write_wf {m : Memory} (h : Memory.wf m) (i : Nat) (v : Byte) : Memory.wf (m.write i v) := by
  constructor
  · induction m with
    | nil => unfold Memory.write Memory.cons; split <;> simp
    | cons c m ih =>
      obtain ⟨a, b⟩ := c
      have hm : Memory.wf m := ⟨h.1.of_cons, fun c hc => h.2 c (by simp [hc])⟩
      have habove : ∀ c ∈ m, a < c.1 := fun c hc => (List.pairwise_cons.1 h.1).1 c hc
      unfold Memory.write Memory.cons
      split
      · rename_i hia
        split
        · exact h.1
        · refine List.pairwise_cons.2 ⟨fun c hc => ?_, h.1⟩
          rcases List.mem_cons.1 hc with rfl | hc
          · exact hia
          · exact hia.trans (habove c hc)
      · split
        · rename_i hia
          subst hia
          split
          · exact hm.1
          · exact List.pairwise_cons.2 ⟨habove, hm.1⟩
        · rename_i h1 h2
          refine List.pairwise_cons.2 ⟨fun c hc => ?_, ih hm⟩
          rcases Memory.mem_write hc with ⟨rfl, -⟩ | hc
          · show a < i; omega
          · exact habove c hc
  · intro c hc
    rcases Memory.mem_write hc with ⟨rfl, hv⟩ | hc
    · exact hv
    · exact h.2 c hc

/-- A write below the bound keeps every index below it. -/
theorem Memory.write_below {m : Memory} {n i : Nat} (h : Memory.below n m) (hi : i < n) (v : Byte) :
    Memory.below n (m.write i v) := by
  intro c hc
  rcases Memory.mem_write hc with ⟨rfl, -⟩ | hc
  · exact hi
  · exact h c hc

theorem Memory.writeBytes_wf {m : Memory} (h : Memory.wf m) (k : Nat) (bytes : List Byte) :
    Memory.wf (m.writeBytes k bytes) := by
  induction bytes generalizing m k with
  | nil => exact h
  | cons b bs ih => exact ih (Memory.write_wf h k b) (k + 1)

theorem Memory.writeBytes_below {m : Memory} {n k : Nat} {bytes : List Byte} (h : Memory.below n m)
    (hk : k + bytes.length ≤ n) : Memory.below n (m.writeBytes k bytes) := by
  induction bytes generalizing m k with
  | nil => exact h
  | cons b bs ih =>
    have hk' : k + (bs.length + 1) ≤ n := hk
    exact ih (Memory.write_below h (by omega) b) (by omega)

/-- Storing a list of bytes from index `k` on changes those indexes and no other (R152). -/
theorem Memory.read_writeBytes {m : Memory} (h : Memory.wf m) (k : Nat) (bytes : List Byte) (j : Nat) :
    (m.writeBytes k bytes).read j =
      if k ≤ j ∧ j < k + bytes.length then bytes.getD (j - k) Memory.blank else m.read j := by
  induction bytes generalizing m k with
  | nil => simp [Memory.writeBytes, show ¬(k ≤ j ∧ j < k) by omega]
  | cons b bs ih =>
    rw [Memory.writeBytes, ih (Memory.write_wf h k b) (k + 1), Memory.read_write h]
    rcases Nat.lt_trichotomy j k with hlt | heq | hgt
    · rw [if_neg (by omega), if_neg (by omega), if_neg (by omega)]
    · subst heq
      rw [if_neg (by omega), if_pos rfl, if_pos (by simp)]
      simp
    · by_cases hin : j < k + (bs.length + 1)
      · rw [if_pos (by omega), if_pos (by simp; omega)]
        rw [show j - k = (j - (k + 1)) + 1 by omega]
        simp
      · rw [if_neg (by omega), if_neg (by omega), if_neg (by simp; omega)]

theorem Memory.readBytes_length (m : Memory) (n : Nat) : (m.readBytes n).length = n := by
  simp [Memory.readBytes]

theorem Memory.readBytes_succ (m : Memory) (n : Nat) :
    m.readBytes (1 + n) = m.read 0 :: (List.range n).map (fun k => m.read (1 + k)) := by
  rw [Memory.readBytes, Nat.add_comm 1 n, List.range_succ_eq_map]
  simp [Function.comp_def, Nat.add_comm]

/-- What is written from index 0 on is read back from there. -/
theorem Memory.readBytes_writeBytes {m : Memory} (h : Memory.wf m) (bytes : List Byte) :
    (m.writeBytes 0 bytes).readBytes bytes.length = bytes := by
  apply List.ext_getElem
  · simp [Memory.readBytes]
  · intro i h1 h2
    simp only [Memory.readBytes, List.getElem_map, List.getElem_range]
    rw [Memory.read_writeBytes h, if_pos (by omega)]
    simp [h2]

theorem Memory.drawn_wf (size : Nat) (bytes : List Byte) : Memory.wf (Memory.drawn size bytes) :=
  Memory.writeBytes_wf Memory.wf_nil 0 _

theorem Memory.drawn_below (size : Nat) (bytes : List Byte) : Memory.below size (Memory.drawn size bytes) :=
  Memory.writeBytes_below (Memory.below_nil size) (by rw [List.length_take]; omega)

/-- A drawn byte is what its entry reads. -/
theorem Memory.drawn_read {size i : Nat} {bytes : List Byte} (h : i < bytes.length) (hi : i < size) :
    (Memory.drawn size bytes).read i = bytes[i] := by
  unfold Memory.drawn
  rw [Memory.read_writeBytes Memory.wf_nil, if_pos (by rw [List.length_take]; omega)]
  simp [hi, h]

end Sys2Proof.Machine
end

