-- ==== Sys2Proof/Laws/State.lean ====
section
/-! SUPPORT. For each shared update of the state, what each field is after it: true by rfl, and in the simp set, so that
no later proof unfolds a record update. -/

namespace Sys2Proof.Machine

/-! ## busWrite -/

@[simp] theorem busWrite_ovr (a : Addr) (bs : List Byte) (rel : Bool) (d : BusDraw) (e : Sensor) :
    ((busWrite a bs rel d e).2).ovr = e.ovr := rfl
@[simp] theorem busWrite_resolved (a : Addr) (bs : List Byte) (rel : Bool) (d : BusDraw) (e : Sensor) :
    ((busWrite a bs rel d e).2).resolved = e.resolved := rfl
@[simp] theorem busWrite_initialized (a : Addr) (bs : List Byte) (rel : Bool) (d : BusDraw) (e : Sensor) :
    ((busWrite a bs rel d e).2).initialized = e.initialized := rfl
@[simp] theorem busWrite_devNotFound (a : Addr) (bs : List Byte) (rel : Bool) (d : BusDraw) (e : Sensor) :
    ((busWrite a bs rel d e).2).devNotFound = e.devNotFound := rfl
@[simp] theorem busWrite_result (a : Addr) (bs : List Byte) (rel : Bool) (d : BusDraw) (e : Sensor) :
    ((busWrite a bs rel d e).2).result = e.result := rfl
@[simp] theorem busWrite_count (a : Addr) (bs : List Byte) (rel : Bool) (d : BusDraw) (e : Sensor) :
    ((busWrite a bs rel d e).2).count = e.count := rfl
@[simp] theorem busWrite_addr (a : Addr) (bs : List Byte) (rel : Bool) (d : BusDraw) (e : Sensor) :
    ((busWrite a bs rel d e).2).addr = e.addr := rfl
@[simp] theorem busWrite_temp16 (a : Addr) (bs : List Byte) (rel : Bool) (d : BusDraw) (e : Sensor) :
    ((busWrite a bs rel d e).2).temp16 = e.temp16 := rfl
@[simp] theorem busWrite_acc16 (a : Addr) (bs : List Byte) (rel : Bool) (d : BusDraw) (e : Sensor) :
    ((busWrite a bs rel d e).2).acc16 = e.acc16 := rfl
@[simp] theorem busWrite_ctl (a : Addr) (bs : List Byte) (rel : Bool) (d : BusDraw) (e : Sensor) :
    ((busWrite a bs rel d e).2).ctl = e.ctl := rfl
@[simp] theorem busWrite_shortLatch (a : Addr) (bs : List Byte) (rel : Bool) (d : BusDraw) (e : Sensor) :
    ((busWrite a bs rel d e).2).shortLatch = e.shortLatch := rfl
@[simp] theorem busWrite_pollN (a : Addr) (bs : List Byte) (rel : Bool) (d : BusDraw) (e : Sensor) :
    ((busWrite a bs rel d e).2).pollN = e.pollN := rfl
@[simp] theorem busWrite_lastCount (a : Addr) (bs : List Byte) (rel : Bool) (d : BusDraw) (e : Sensor) :
    ((busWrite a bs rel d e).2).lastCount = e.lastCount := rfl
@[simp] theorem busWrite_fatalReported (a : Addr) (bs : List Byte) (rel : Bool) (d : BusDraw) (e : Sensor) :
    ((busWrite a bs rel d e).2).fatalReported = e.fatalReported := rfl
@[simp] theorem busWrite_txbuf (a : Addr) (bs : List Byte) (rel : Bool) (d : BusDraw) (e : Sensor) :
    ((busWrite a bs rel d e).2).txbuf = e.txbuf := rfl
@[simp] theorem busWrite_rxbuf (a : Addr) (bs : List Byte) (rel : Bool) (d : BusDraw) (e : Sensor) :
    ((busWrite a bs rel d e).2).rxbuf = e.rxbuf := rfl
@[simp] theorem busWrite_staging (a : Addr) (bs : List Byte) (rel : Bool) (d : BusDraw) (e : Sensor) :
    ((busWrite a bs rel d e).2).staging = e.staging := rfl
@[simp] theorem busWrite_busHistory (a : Addr) (bs : List Byte) (rel : Bool) (d : BusDraw) (e : Sensor) :
    ((busWrite a bs rel d e).2).busHistory = e.busHistory ++ [.bw a bs rel (min d.sent bs.length)] := rfl

@[simp] theorem busWrite_sent (a : Addr) (bs : List Byte) (rel : Bool) (d : BusDraw) (e : Sensor) :
    (busWrite a bs rel d e).1 = min d.sent bs.length := rfl

/-! ## busRead -/

@[simp] theorem busRead_ovr (a : Addr) (n : Nat) (d : BusDraw) (e : Sensor) :
    ((busRead a n d e).2).ovr = e.ovr := rfl
@[simp] theorem busRead_resolved (a : Addr) (n : Nat) (d : BusDraw) (e : Sensor) :
    ((busRead a n d e).2).resolved = e.resolved := rfl
@[simp] theorem busRead_initialized (a : Addr) (n : Nat) (d : BusDraw) (e : Sensor) :
    ((busRead a n d e).2).initialized = e.initialized := rfl
@[simp] theorem busRead_devNotFound (a : Addr) (n : Nat) (d : BusDraw) (e : Sensor) :
    ((busRead a n d e).2).devNotFound = e.devNotFound := rfl
@[simp] theorem busRead_result (a : Addr) (n : Nat) (d : BusDraw) (e : Sensor) :
    ((busRead a n d e).2).result = e.result := rfl
@[simp] theorem busRead_count (a : Addr) (n : Nat) (d : BusDraw) (e : Sensor) :
    ((busRead a n d e).2).count = e.count := rfl
@[simp] theorem busRead_addr (a : Addr) (n : Nat) (d : BusDraw) (e : Sensor) :
    ((busRead a n d e).2).addr = e.addr := rfl
@[simp] theorem busRead_temp16 (a : Addr) (n : Nat) (d : BusDraw) (e : Sensor) :
    ((busRead a n d e).2).temp16 = e.temp16 := rfl
@[simp] theorem busRead_acc16 (a : Addr) (n : Nat) (d : BusDraw) (e : Sensor) :
    ((busRead a n d e).2).acc16 = e.acc16 := rfl
@[simp] theorem busRead_ctl (a : Addr) (n : Nat) (d : BusDraw) (e : Sensor) :
    ((busRead a n d e).2).ctl = e.ctl := rfl
@[simp] theorem busRead_shortLatch (a : Addr) (n : Nat) (d : BusDraw) (e : Sensor) :
    ((busRead a n d e).2).shortLatch = e.shortLatch := rfl
@[simp] theorem busRead_pollN (a : Addr) (n : Nat) (d : BusDraw) (e : Sensor) :
    ((busRead a n d e).2).pollN = e.pollN := rfl
@[simp] theorem busRead_lastCount (a : Addr) (n : Nat) (d : BusDraw) (e : Sensor) :
    ((busRead a n d e).2).lastCount = e.lastCount := rfl
@[simp] theorem busRead_fatalReported (a : Addr) (n : Nat) (d : BusDraw) (e : Sensor) :
    ((busRead a n d e).2).fatalReported = e.fatalReported := rfl
@[simp] theorem busRead_txbuf (a : Addr) (n : Nat) (d : BusDraw) (e : Sensor) :
    ((busRead a n d e).2).txbuf = e.txbuf := rfl
@[simp] theorem busRead_rxbuf (a : Addr) (n : Nat) (d : BusDraw) (e : Sensor) :
    ((busRead a n d e).2).rxbuf = Memory.writeBytes e.rxbuf 0 (d.data.take n) := rfl
@[simp] theorem busRead_staging (a : Addr) (n : Nat) (d : BusDraw) (e : Sensor) :
    ((busRead a n d e).2).staging = e.staging := rfl
@[simp] theorem busRead_busHistory (a : Addr) (n : Nat) (d : BusDraw) (e : Sensor) :
    ((busRead a n d e).2).busHistory = e.busHistory ++ [.br a n (d.data.take n).length (d.data.take n)] := rfl

@[simp] theorem busRead_received (a : Addr) (n : Nat) (d : BusDraw) (e : Sensor) :
    (busRead a n d e).1 = (d.data.take n).length := rfl

/-! ## regReadStart -/

@[simp] theorem regReadStart_ovr (a : Addr) (r : Byte) (at' : ReadPt → Running) (d : BusDraw) (e : Sensor) :
    (regReadStart a r at' d e).ovr = e.ovr := rfl
@[simp] theorem regReadStart_resolved (a : Addr) (r : Byte) (at' : ReadPt → Running) (d : BusDraw) (e : Sensor) :
    (regReadStart a r at' d e).resolved = e.resolved := rfl
@[simp] theorem regReadStart_initialized (a : Addr) (r : Byte) (at' : ReadPt → Running) (d : BusDraw) (e : Sensor) :
    (regReadStart a r at' d e).initialized = e.initialized := rfl
@[simp] theorem regReadStart_devNotFound (a : Addr) (r : Byte) (at' : ReadPt → Running) (d : BusDraw) (e : Sensor) :
    (regReadStart a r at' d e).devNotFound = e.devNotFound := rfl
@[simp] theorem regReadStart_result (a : Addr) (r : Byte) (at' : ReadPt → Running) (d : BusDraw) (e : Sensor) :
    (regReadStart a r at' d e).result = e.result := rfl
@[simp] theorem regReadStart_count (a : Addr) (r : Byte) (at' : ReadPt → Running) (d : BusDraw) (e : Sensor) :
    (regReadStart a r at' d e).count = e.count := rfl
@[simp] theorem regReadStart_addr (a : Addr) (r : Byte) (at' : ReadPt → Running) (d : BusDraw) (e : Sensor) :
    (regReadStart a r at' d e).addr = e.addr := rfl
@[simp] theorem regReadStart_temp16 (a : Addr) (r : Byte) (at' : ReadPt → Running) (d : BusDraw) (e : Sensor) :
    (regReadStart a r at' d e).temp16 = e.temp16 := rfl
@[simp] theorem regReadStart_acc16 (a : Addr) (r : Byte) (at' : ReadPt → Running) (d : BusDraw) (e : Sensor) :
    (regReadStart a r at' d e).acc16 = e.acc16 := rfl
@[simp] theorem regReadStart_ctl (a : Addr) (r : Byte) (at' : ReadPt → Running) (d : BusDraw) (e : Sensor) :
    (regReadStart a r at' d e).ctl = .run (at' (.held (min d.sent 1))) := rfl
@[simp] theorem regReadStart_shortLatch (a : Addr) (r : Byte) (at' : ReadPt → Running) (d : BusDraw) (e : Sensor) :
    (regReadStart a r at' d e).shortLatch = e.shortLatch := rfl
@[simp] theorem regReadStart_pollN (a : Addr) (r : Byte) (at' : ReadPt → Running) (d : BusDraw) (e : Sensor) :
    (regReadStart a r at' d e).pollN = e.pollN := rfl
@[simp] theorem regReadStart_lastCount (a : Addr) (r : Byte) (at' : ReadPt → Running) (d : BusDraw) (e : Sensor) :
    (regReadStart a r at' d e).lastCount = e.lastCount := rfl
@[simp] theorem regReadStart_fatalReported (a : Addr) (r : Byte) (at' : ReadPt → Running) (d : BusDraw) (e : Sensor) :
    (regReadStart a r at' d e).fatalReported = e.fatalReported := rfl
@[simp] theorem regReadStart_txbuf (a : Addr) (r : Byte) (at' : ReadPt → Running) (d : BusDraw) (e : Sensor) :
    (regReadStart a r at' d e).txbuf = e.txbuf := rfl
@[simp] theorem regReadStart_rxbuf (a : Addr) (r : Byte) (at' : ReadPt → Running) (d : BusDraw) (e : Sensor) :
    (regReadStart a r at' d e).rxbuf = e.rxbuf := rfl
@[simp] theorem regReadStart_staging (a : Addr) (r : Byte) (at' : ReadPt → Running) (d : BusDraw) (e : Sensor) :
    (regReadStart a r at' d e).staging = e.staging := rfl
@[simp] theorem regReadStart_busHistory (a : Addr) (r : Byte) (at' : ReadPt → Running) (d : BusDraw) (e : Sensor) :
    (regReadStart a r at' d e).busHistory = e.busHistory ++ [.bw a [r] false (min d.sent 1)] := rfl

/-! ## regReadHeld -/

@[simp] theorem regReadHeld_ovr (a : Addr) (n sent : Nat) (at' : ReadPt → Running) (d : BusDraw) (e : Sensor) :
    (regReadHeld a n sent at' d e).ovr = e.ovr := rfl
@[simp] theorem regReadHeld_resolved (a : Addr) (n sent : Nat) (at' : ReadPt → Running) (d : BusDraw) (e : Sensor) :
    (regReadHeld a n sent at' d e).resolved = e.resolved := rfl
@[simp] theorem regReadHeld_initialized (a : Addr) (n sent : Nat) (at' : ReadPt → Running) (d : BusDraw) (e : Sensor) :
    (regReadHeld a n sent at' d e).initialized = e.initialized := rfl
@[simp] theorem regReadHeld_devNotFound (a : Addr) (n sent : Nat) (at' : ReadPt → Running) (d : BusDraw) (e : Sensor) :
    (regReadHeld a n sent at' d e).devNotFound = e.devNotFound := rfl
@[simp] theorem regReadHeld_result (a : Addr) (n sent : Nat) (at' : ReadPt → Running) (d : BusDraw) (e : Sensor) :
    (regReadHeld a n sent at' d e).result = e.result := rfl
@[simp] theorem regReadHeld_count (a : Addr) (n sent : Nat) (at' : ReadPt → Running) (d : BusDraw) (e : Sensor) :
    (regReadHeld a n sent at' d e).count = e.count := rfl
@[simp] theorem regReadHeld_addr (a : Addr) (n sent : Nat) (at' : ReadPt → Running) (d : BusDraw) (e : Sensor) :
    (regReadHeld a n sent at' d e).addr = e.addr := rfl
@[simp] theorem regReadHeld_temp16 (a : Addr) (n sent : Nat) (at' : ReadPt → Running) (d : BusDraw) (e : Sensor) :
    (regReadHeld a n sent at' d e).temp16 = e.temp16 := rfl
@[simp] theorem regReadHeld_acc16 (a : Addr) (n sent : Nat) (at' : ReadPt → Running) (d : BusDraw) (e : Sensor) :
    (regReadHeld a n sent at' d e).acc16 = e.acc16 := rfl
@[simp] theorem regReadHeld_ctl (a : Addr) (n sent : Nat) (at' : ReadPt → Running) (d : BusDraw) (e : Sensor) :
    (regReadHeld a n sent at' d e).ctl = .run (at' (.got sent (d.data.take n).length)) := rfl
@[simp] theorem regReadHeld_shortLatch (a : Addr) (n sent : Nat) (at' : ReadPt → Running) (d : BusDraw) (e : Sensor) :
    (regReadHeld a n sent at' d e).shortLatch = e.shortLatch := rfl
@[simp] theorem regReadHeld_pollN (a : Addr) (n sent : Nat) (at' : ReadPt → Running) (d : BusDraw) (e : Sensor) :
    (regReadHeld a n sent at' d e).pollN = e.pollN := rfl
@[simp] theorem regReadHeld_lastCount (a : Addr) (n sent : Nat) (at' : ReadPt → Running) (d : BusDraw) (e : Sensor) :
    (regReadHeld a n sent at' d e).lastCount = e.lastCount := rfl
@[simp] theorem regReadHeld_fatalReported (a : Addr) (n sent : Nat) (at' : ReadPt → Running) (d : BusDraw) (e : Sensor) :
    (regReadHeld a n sent at' d e).fatalReported = e.fatalReported := rfl
@[simp] theorem regReadHeld_txbuf (a : Addr) (n sent : Nat) (at' : ReadPt → Running) (d : BusDraw) (e : Sensor) :
    (regReadHeld a n sent at' d e).txbuf = e.txbuf := rfl
@[simp] theorem regReadHeld_rxbuf (a : Addr) (n sent : Nat) (at' : ReadPt → Running) (d : BusDraw) (e : Sensor) :
    (regReadHeld a n sent at' d e).rxbuf = Memory.writeBytes e.rxbuf 0 (d.data.take n) := rfl
@[simp] theorem regReadHeld_staging (a : Addr) (n sent : Nat) (at' : ReadPt → Running) (d : BusDraw) (e : Sensor) :
    (regReadHeld a n sent at' d e).staging = e.staging := rfl
@[simp] theorem regReadHeld_busHistory (a : Addr) (n sent : Nat) (at' : ReadPt → Running) (d : BusDraw) (e : Sensor) :
    (regReadHeld a n sent at' d e).busHistory = e.busHistory ++ [.br a n (d.data.take n).length (d.data.take n)] := rfl

/-! ## noteAccess -/

@[simp] theorem noteAccess_ovr (count : Nat) (ok : Bool) (e : Sensor) :
    (noteAccess count ok e).ovr = e.ovr := rfl
@[simp] theorem noteAccess_resolved (count : Nat) (ok : Bool) (e : Sensor) :
    (noteAccess count ok e).resolved = e.resolved := rfl
@[simp] theorem noteAccess_initialized (count : Nat) (ok : Bool) (e : Sensor) :
    (noteAccess count ok e).initialized = e.initialized := rfl
@[simp] theorem noteAccess_devNotFound (count : Nat) (ok : Bool) (e : Sensor) :
    (noteAccess count ok e).devNotFound = e.devNotFound := rfl
@[simp] theorem noteAccess_result (count : Nat) (ok : Bool) (e : Sensor) :
    (noteAccess count ok e).result = e.result := rfl
@[simp] theorem noteAccess_count (count : Nat) (ok : Bool) (e : Sensor) :
    (noteAccess count ok e).count = e.count := rfl
@[simp] theorem noteAccess_addr (count : Nat) (ok : Bool) (e : Sensor) :
    (noteAccess count ok e).addr = e.addr := rfl
@[simp] theorem noteAccess_temp16 (count : Nat) (ok : Bool) (e : Sensor) :
    (noteAccess count ok e).temp16 = e.temp16 := rfl
@[simp] theorem noteAccess_acc16 (count : Nat) (ok : Bool) (e : Sensor) :
    (noteAccess count ok e).acc16 = e.acc16 := rfl
@[simp] theorem noteAccess_ctl (count : Nat) (ok : Bool) (e : Sensor) :
    (noteAccess count ok e).ctl = e.ctl := rfl
@[simp] theorem noteAccess_shortLatch (count : Nat) (ok : Bool) (e : Sensor) :
    (noteAccess count ok e).shortLatch = (e.shortLatch || !ok) := rfl
@[simp] theorem noteAccess_pollN (count : Nat) (ok : Bool) (e : Sensor) :
    (noteAccess count ok e).pollN = e.pollN := rfl
@[simp] theorem noteAccess_lastCount (count : Nat) (ok : Bool) (e : Sensor) :
    (noteAccess count ok e).lastCount = some count := rfl
@[simp] theorem noteAccess_fatalReported (count : Nat) (ok : Bool) (e : Sensor) :
    (noteAccess count ok e).fatalReported = e.fatalReported := rfl
@[simp] theorem noteAccess_txbuf (count : Nat) (ok : Bool) (e : Sensor) :
    (noteAccess count ok e).txbuf = e.txbuf := rfl
@[simp] theorem noteAccess_rxbuf (count : Nat) (ok : Bool) (e : Sensor) :
    (noteAccess count ok e).rxbuf = e.rxbuf := rfl
@[simp] theorem noteAccess_staging (count : Nat) (ok : Bool) (e : Sensor) :
    (noteAccess count ok e).staging = e.staging := rfl
@[simp] theorem noteAccess_busHistory (count : Nat) (ok : Bool) (e : Sensor) :
    (noteAccess count ok e).busHistory = e.busHistory := rfl

/-! ## stage -/

@[simp] theorem stage_ovr (reg : Byte) (payload : List Byte) (e : Sensor) :
    (stage reg payload e).ovr = e.ovr := rfl
@[simp] theorem stage_resolved (reg : Byte) (payload : List Byte) (e : Sensor) :
    (stage reg payload e).resolved = e.resolved := rfl
@[simp] theorem stage_initialized (reg : Byte) (payload : List Byte) (e : Sensor) :
    (stage reg payload e).initialized = e.initialized := rfl
@[simp] theorem stage_devNotFound (reg : Byte) (payload : List Byte) (e : Sensor) :
    (stage reg payload e).devNotFound = e.devNotFound := rfl
@[simp] theorem stage_result (reg : Byte) (payload : List Byte) (e : Sensor) :
    (stage reg payload e).result = e.result := rfl
@[simp] theorem stage_count (reg : Byte) (payload : List Byte) (e : Sensor) :
    (stage reg payload e).count = e.count := rfl
@[simp] theorem stage_addr (reg : Byte) (payload : List Byte) (e : Sensor) :
    (stage reg payload e).addr = e.addr := rfl
@[simp] theorem stage_temp16 (reg : Byte) (payload : List Byte) (e : Sensor) :
    (stage reg payload e).temp16 = e.temp16 := rfl
@[simp] theorem stage_acc16 (reg : Byte) (payload : List Byte) (e : Sensor) :
    (stage reg payload e).acc16 = e.acc16 := rfl
@[simp] theorem stage_ctl (reg : Byte) (payload : List Byte) (e : Sensor) :
    (stage reg payload e).ctl = e.ctl := rfl
@[simp] theorem stage_shortLatch (reg : Byte) (payload : List Byte) (e : Sensor) :
    (stage reg payload e).shortLatch = e.shortLatch := rfl
@[simp] theorem stage_pollN (reg : Byte) (payload : List Byte) (e : Sensor) :
    (stage reg payload e).pollN = e.pollN := rfl
@[simp] theorem stage_lastCount (reg : Byte) (payload : List Byte) (e : Sensor) :
    (stage reg payload e).lastCount = e.lastCount := rfl
@[simp] theorem stage_fatalReported (reg : Byte) (payload : List Byte) (e : Sensor) :
    (stage reg payload e).fatalReported = e.fatalReported := rfl
@[simp] theorem stage_txbuf (reg : Byte) (payload : List Byte) (e : Sensor) :
    (stage reg payload e).txbuf = e.txbuf := rfl
@[simp] theorem stage_rxbuf (reg : Byte) (payload : List Byte) (e : Sensor) :
    (stage reg payload e).rxbuf = e.rxbuf := rfl
@[simp] theorem stage_staging (reg : Byte) (payload : List Byte) (e : Sensor) :
    (stage reg payload e).staging = Memory.writeBytes e.staging 0 (reg :: payload) := rfl
@[simp] theorem stage_busHistory (reg : Byte) (payload : List Byte) (e : Sensor) :
    (stage reg payload e).busHistory = e.busHistory := rfl

/-! ## beginRun -/

@[simp] theorem beginRun_ovr (r : Running) (e : Sensor) :
    (beginRun r e).ovr = e.ovr := rfl
@[simp] theorem beginRun_resolved (r : Running) (e : Sensor) :
    (beginRun r e).resolved = e.resolved := rfl
@[simp] theorem beginRun_initialized (r : Running) (e : Sensor) :
    (beginRun r e).initialized = e.initialized := rfl
@[simp] theorem beginRun_devNotFound (r : Running) (e : Sensor) :
    (beginRun r e).devNotFound = e.devNotFound := rfl
@[simp] theorem beginRun_result (r : Running) (e : Sensor) :
    (beginRun r e).result = e.result := rfl
@[simp] theorem beginRun_count (r : Running) (e : Sensor) :
    (beginRun r e).count = e.count := rfl
@[simp] theorem beginRun_addr (r : Running) (e : Sensor) :
    (beginRun r e).addr = e.addr := rfl
@[simp] theorem beginRun_temp16 (r : Running) (e : Sensor) :
    (beginRun r e).temp16 = e.temp16 := rfl
@[simp] theorem beginRun_acc16 (r : Running) (e : Sensor) :
    (beginRun r e).acc16 = e.acc16 := rfl
@[simp] theorem beginRun_ctl (r : Running) (e : Sensor) :
    (beginRun r e).ctl = .run r := rfl
@[simp] theorem beginRun_shortLatch (r : Running) (e : Sensor) :
    (beginRun r e).shortLatch = e.shortLatch := rfl
@[simp] theorem beginRun_pollN (r : Running) (e : Sensor) :
    (beginRun r e).pollN = e.pollN := rfl
@[simp] theorem beginRun_lastCount (r : Running) (e : Sensor) :
    (beginRun r e).lastCount = e.lastCount := rfl
@[simp] theorem beginRun_fatalReported (r : Running) (e : Sensor) :
    (beginRun r e).fatalReported = e.fatalReported := rfl
@[simp] theorem beginRun_txbuf (r : Running) (e : Sensor) :
    (beginRun r e).txbuf = e.txbuf := rfl
@[simp] theorem beginRun_rxbuf (r : Running) (e : Sensor) :
    (beginRun r e).rxbuf = e.rxbuf := rfl
@[simp] theorem beginRun_staging (r : Running) (e : Sensor) :
    (beginRun r e).staging = e.staging := rfl
@[simp] theorem beginRun_busHistory (r : Running) (e : Sensor) :
    (beginRun r e).busHistory = e.busHistory := rfl

/-! ## complete -/

@[simp] theorem complete_ovr (code : ResultCode) (e : Sensor) :
    (complete code e).ovr = e.ovr := rfl
@[simp] theorem complete_resolved (code : ResultCode) (e : Sensor) :
    (complete code e).resolved = e.resolved := rfl
@[simp] theorem complete_initialized (code : ResultCode) (e : Sensor) :
    (complete code e).initialized = e.initialized := rfl
@[simp] theorem complete_devNotFound (code : ResultCode) (e : Sensor) :
    (complete code e).devNotFound = e.devNotFound := rfl
@[simp] theorem complete_result (code : ResultCode) (e : Sensor) :
    (complete code e).result = code := rfl
@[simp] theorem complete_count (code : ResultCode) (e : Sensor) :
    (complete code e).count = (match e.lastCount with | some c => BitVec.ofNat 16 c | none => e.count) := rfl
@[simp] theorem complete_addr (code : ResultCode) (e : Sensor) :
    (complete code e).addr = e.addr := rfl
@[simp] theorem complete_temp16 (code : ResultCode) (e : Sensor) :
    (complete code e).temp16 = e.temp16 := rfl
@[simp] theorem complete_acc16 (code : ResultCode) (e : Sensor) :
    (complete code e).acc16 = e.acc16 := rfl
@[simp] theorem complete_ctl (code : ResultCode) (e : Sensor) :
    (complete code e).ctl = .idle := rfl
@[simp] theorem complete_shortLatch (code : ResultCode) (e : Sensor) :
    (complete code e).shortLatch = e.shortLatch := rfl
@[simp] theorem complete_pollN (code : ResultCode) (e : Sensor) :
    (complete code e).pollN = e.pollN := rfl
@[simp] theorem complete_lastCount (code : ResultCode) (e : Sensor) :
    (complete code e).lastCount = e.lastCount := rfl
@[simp] theorem complete_fatalReported (code : ResultCode) (e : Sensor) :
    (complete code e).fatalReported = e.fatalReported := rfl
@[simp] theorem complete_txbuf (code : ResultCode) (e : Sensor) :
    (complete code e).txbuf = e.txbuf := rfl
@[simp] theorem complete_rxbuf (code : ResultCode) (e : Sensor) :
    (complete code e).rxbuf = e.rxbuf := rfl
@[simp] theorem complete_staging (code : ResultCode) (e : Sensor) :
    (complete code e).staging = e.staging := rfl
@[simp] theorem complete_busHistory (code : ResultCode) (e : Sensor) :
    (complete code e).busHistory = e.busHistory := rfl

/-! ## commitAddress -/

@[simp] theorem commitAddress_ovr (a : Addr) (nf : Bool) (e : Sensor) :
    (commitAddress a nf e).ovr = e.ovr := rfl
@[simp] theorem commitAddress_resolved (a : Addr) (nf : Bool) (e : Sensor) :
    (commitAddress a nf e).resolved = true := rfl
@[simp] theorem commitAddress_initialized (a : Addr) (nf : Bool) (e : Sensor) :
    (commitAddress a nf e).initialized = e.initialized := rfl
@[simp] theorem commitAddress_devNotFound (a : Addr) (nf : Bool) (e : Sensor) :
    (commitAddress a nf e).devNotFound = nf := rfl
@[simp] theorem commitAddress_result (a : Addr) (nf : Bool) (e : Sensor) :
    (commitAddress a nf e).result = e.result := rfl
@[simp] theorem commitAddress_count (a : Addr) (nf : Bool) (e : Sensor) :
    (commitAddress a nf e).count = e.count := rfl
@[simp] theorem commitAddress_addr (a : Addr) (nf : Bool) (e : Sensor) :
    (commitAddress a nf e).addr = a := rfl
@[simp] theorem commitAddress_temp16 (a : Addr) (nf : Bool) (e : Sensor) :
    (commitAddress a nf e).temp16 = e.temp16 := rfl
@[simp] theorem commitAddress_acc16 (a : Addr) (nf : Bool) (e : Sensor) :
    (commitAddress a nf e).acc16 = e.acc16 := rfl
@[simp] theorem commitAddress_ctl (a : Addr) (nf : Bool) (e : Sensor) :
    (commitAddress a nf e).ctl = e.ctl := rfl
@[simp] theorem commitAddress_shortLatch (a : Addr) (nf : Bool) (e : Sensor) :
    (commitAddress a nf e).shortLatch = e.shortLatch := rfl
@[simp] theorem commitAddress_pollN (a : Addr) (nf : Bool) (e : Sensor) :
    (commitAddress a nf e).pollN = e.pollN := rfl
@[simp] theorem commitAddress_lastCount (a : Addr) (nf : Bool) (e : Sensor) :
    (commitAddress a nf e).lastCount = e.lastCount := rfl
@[simp] theorem commitAddress_fatalReported (a : Addr) (nf : Bool) (e : Sensor) :
    (commitAddress a nf e).fatalReported = e.fatalReported := rfl
@[simp] theorem commitAddress_txbuf (a : Addr) (nf : Bool) (e : Sensor) :
    (commitAddress a nf e).txbuf = e.txbuf := rfl
@[simp] theorem commitAddress_rxbuf (a : Addr) (nf : Bool) (e : Sensor) :
    (commitAddress a nf e).rxbuf = e.rxbuf := rfl
@[simp] theorem commitAddress_staging (a : Addr) (nf : Bool) (e : Sensor) :
    (commitAddress a nf e).staging = e.staging := rfl
@[simp] theorem commitAddress_busHistory (a : Addr) (nf : Bool) (e : Sensor) :
    (commitAddress a nf e).busHistory = e.busHistory := rfl

/-! ## countPoll -/

@[simp] theorem countPoll_ovr (e : Sensor) :
    (countPoll e).ovr = e.ovr := rfl
@[simp] theorem countPoll_resolved (e : Sensor) :
    (countPoll e).resolved = e.resolved := rfl
@[simp] theorem countPoll_initialized (e : Sensor) :
    (countPoll e).initialized = e.initialized := rfl
@[simp] theorem countPoll_devNotFound (e : Sensor) :
    (countPoll e).devNotFound = e.devNotFound := rfl
@[simp] theorem countPoll_result (e : Sensor) :
    (countPoll e).result = e.result := rfl
@[simp] theorem countPoll_count (e : Sensor) :
    (countPoll e).count = e.count := rfl
@[simp] theorem countPoll_addr (e : Sensor) :
    (countPoll e).addr = e.addr := rfl
@[simp] theorem countPoll_temp16 (e : Sensor) :
    (countPoll e).temp16 = e.temp16 := rfl
@[simp] theorem countPoll_acc16 (e : Sensor) :
    (countPoll e).acc16 = e.acc16 := rfl
@[simp] theorem countPoll_ctl (e : Sensor) :
    (countPoll e).ctl = e.ctl := rfl
@[simp] theorem countPoll_shortLatch (e : Sensor) :
    (countPoll e).shortLatch = e.shortLatch := rfl
@[simp] theorem countPoll_pollN (e : Sensor) :
    (countPoll e).pollN = BitVec.ofNat 32 (min (e.pollN.toNat + 1) (2 ^ 32 - 1)) := rfl
@[simp] theorem countPoll_lastCount (e : Sensor) :
    (countPoll e).lastCount = e.lastCount := rfl
@[simp] theorem countPoll_fatalReported (e : Sensor) :
    (countPoll e).fatalReported = e.fatalReported := rfl
@[simp] theorem countPoll_txbuf (e : Sensor) :
    (countPoll e).txbuf = e.txbuf := rfl
@[simp] theorem countPoll_rxbuf (e : Sensor) :
    (countPoll e).rxbuf = e.rxbuf := rfl
@[simp] theorem countPoll_staging (e : Sensor) :
    (countPoll e).staging = e.staging := rfl
@[simp] theorem countPoll_busHistory (e : Sensor) :
    (countPoll e).busHistory = e.busHistory := rfl

/-! ## diagnose -/

@[simp] theorem diagnose_config (k : DiagKind) (v : Word) (s : State) :
    (diagnose k v s).config = s.config := rfl
@[simp] theorem diagnose_sensor (k : DiagKind) (v : Word) (s : State) :
    (diagnose k v s).sensor = s.sensor := rfl
@[simp] theorem diagnose_led (k : DiagKind) (v : Word) (s : State) :
    (diagnose k v s).led = s.led := rfl
@[simp] theorem diagnose_diag (k : DiagKind) (v : Word) (s : State) :
    (diagnose k v s).diag = s.diag ++ [{ kind := k, value := v }] := rfl
@[simp] theorem diagnose_hostErrors (k : DiagKind) (v : Word) (s : State) :
    (diagnose k v s).hostErrors = s.hostErrors := rfl
@[simp] theorem diagnose_reads (k : DiagKind) (v : Word) (s : State) :
    (diagnose k v s).reads = s.reads := rfl
@[simp] theorem diagnose_program (k : DiagKind) (v : Word) (s : State) :
    (diagnose k v s).program = s.program := rfl
@[simp] theorem diagnose_schedule (k : DiagKind) (v : Word) (s : State) :
    (diagnose k v s).schedule = s.schedule := rfl

/-! ## sensorStep -/

@[simp] theorem sensorStep_config (d : BusDraw) (s : State) :
    (sensorStep d s).config = s.config := rfl
@[simp] theorem sensorStep_sensor (d : BusDraw) (s : State) :
    (sensorStep d s).sensor = stepSensor s.config d s.sensor := rfl
@[simp] theorem sensorStep_led (d : BusDraw) (s : State) :
    (sensorStep d s).led = s.led := rfl
@[simp] theorem sensorStep_diag (d : BusDraw) (s : State) :
    (sensorStep d s).diag = s.diag := rfl
@[simp] theorem sensorStep_hostErrors (d : BusDraw) (s : State) :
    (sensorStep d s).hostErrors = s.hostErrors := rfl
@[simp] theorem sensorStep_reads (d : BusDraw) (s : State) :
    (sensorStep d s).reads = s.reads := rfl
@[simp] theorem sensorStep_program (d : BusDraw) (s : State) :
    (sensorStep d s).program = s.program := rfl
@[simp] theorem sensorStep_schedule (d : BusDraw) (s : State) :
    (sensorStep d s).schedule = s.schedule := rfl

/-! ## recordAccessError -/

@[simp] theorem recordAccessError_config (addr size : Nat) (s : State) :
    (recordAccessError addr size s).config = s.config := rfl
@[simp] theorem recordAccessError_sensor (addr size : Nat) (s : State) :
    (recordAccessError addr size s).sensor = s.sensor := rfl
@[simp] theorem recordAccessError_led (addr size : Nat) (s : State) :
    (recordAccessError addr size s).led = s.led := rfl
@[simp] theorem recordAccessError_diag (addr size : Nat) (s : State) :
    (recordAccessError addr size s).diag = s.diag := rfl
@[simp] theorem recordAccessError_hostErrors (addr size : Nat) (s : State) :
    (recordAccessError addr size s).hostErrors = s.hostErrors ++ [.hostAccessError ((addr : Int) - s.config.baseAddr) size] := rfl
@[simp] theorem recordAccessError_reads (addr size : Nat) (s : State) :
    (recordAccessError addr size s).reads = s.reads := rfl
@[simp] theorem recordAccessError_program (addr size : Nat) (s : State) :
    (recordAccessError addr size s).program = s.program := rfl
@[simp] theorem recordAccessError_schedule (addr size : Nat) (s : State) :
    (recordAccessError addr size s).schedule = s.schedule := rfl

/-! ## resetBlock -/

@[simp] theorem resetBlock_config (tx rx staging : List Byte) (s : State) :
    (resetBlock tx rx staging s).config = s.config := rfl
@[simp] theorem resetBlock_sensor (tx rx staging : List Byte) (s : State) :
    (resetBlock tx rx staging s).sensor =
      Sensor.afterReset (Memory.drawn 256 tx) (Memory.drawn s.config.rxSize rx)
        (Memory.drawn s.config.stagingSize staging) s.sensor.busHistory := rfl
@[simp] theorem resetBlock_led (tx rx staging : List Byte) (s : State) :
    (resetBlock tx rx staging s).led = Led.afterReset := rfl
@[simp] theorem resetBlock_diag (tx rx staging : List Byte) (s : State) :
    (resetBlock tx rx staging s).diag = s.diag := rfl
@[simp] theorem resetBlock_hostErrors (tx rx staging : List Byte) (s : State) :
    (resetBlock tx rx staging s).hostErrors = s.hostErrors := rfl
@[simp] theorem resetBlock_reads (tx rx staging : List Byte) (s : State) :
    (resetBlock tx rx staging s).reads = s.reads := rfl
@[simp] theorem resetBlock_program (tx rx staging : List Byte) (s : State) :
    (resetBlock tx rx staging s).program = s.program := rfl
@[simp] theorem resetBlock_schedule (tx rx staging : List Byte) (s : State) :
    (resetBlock tx rx staging s).schedule = s.schedule := rfl

/-! ## withFetchWord -/

@[simp] theorem withFetchWord_config (s : State) (nbits w : Nat) :
    (s.withFetchWord nbits w).config = s.config := rfl
@[simp] theorem withFetchWord_sensor (s : State) (nbits w : Nat) :
    (s.withFetchWord nbits w).sensor = s.sensor := rfl
@[simp] theorem withFetchWord_led (s : State) (nbits w : Nat) :
    (s.withFetchWord nbits w).led = s.led := rfl
@[simp] theorem withFetchWord_diag (s : State) (nbits w : Nat) :
    (s.withFetchWord nbits w).diag = s.diag := rfl
@[simp] theorem withFetchWord_hostErrors (s : State) (nbits w : Nat) :
    (s.withFetchWord nbits w).hostErrors = s.hostErrors := rfl
@[simp] theorem withFetchWord_reads (s : State) (nbits w : Nat) :
    (s.withFetchWord nbits w).reads = s.reads := rfl
@[simp] theorem withFetchWord_program (s : State) (nbits w : Nat) :
    (s.withFetchWord nbits w).program = opWr s.config (tableOffset nbits w) (tableWord nbits w) :: s.program := rfl
@[simp] theorem withFetchWord_schedule (s : State) (nbits w : Nat) :
    (s.withFetchWord nbits w).schedule = .host 0 :: s.schedule := rfl

/-! ## startCycle -/

@[simp] theorem startCycle_state (c : Config) (l : Led) :
    (startCycle c l).state = l.state := rfl
@[simp] theorem startCycle_ledA (c : Config) (l : Led) :
    (startCycle c l).ledA = l.ledA := rfl
@[simp] theorem startCycle_ledB (c : Config) (l : Led) :
    (startCycle c l).ledB = l.ledB := rfl
@[simp] theorem startCycle_phase (c : Config) (l : Led) :
    (startCycle c l).phase = false := rfl
@[simp] theorem startCycle_btnQ (c : Config) (l : Led) :
    (startCycle c l).btnQ = l.btnQ := rfl
@[simp] theorem startCycle_lresult (c : Config) (l : Led) :
    (startCycle c l).lresult = l.lresult := rfl
@[simp] theorem startCycle_pattern (c : Config) (l : Led) :
    (startCycle c l).pattern = l.pattern := rfl
@[simp] theorem startCycle_debounce (c : Config) (l : Led) :
    (startCycle c l).debounce = l.debounce := rfl
@[simp] theorem startCycle_period (c : Config) (l : Led) :
    (startCycle c l).period = periodOf c l.pattern := rfl
@[simp] theorem startCycle_ticks (c : Config) (l : Led) :
    (startCycle c l).ticks = periodOf c l.pattern := rfl

end Sys2Proof.Machine
end

