-- ==== Sys2Proof/Laws/Ops.lean ====
section
/-! SUPPORT. For each shared operation, what it can do, said once: later proofs cite these and unfold nothing. -/

namespace Sys2Proof.Machine

/-! ## Words -/

/-- OP of a format S word (R100). -/
theorem opField_formatS (len : Half) (reg op : Byte) : opField (formatS len reg op) = op := by
  unfold opField formatS; ext i hi
  simp only [BitVec.getElem_extractLsb', BitVec.getLsbD_append]
  simp [hi]

/-- REG of a format S word (R100). -/
theorem regField_formatS (len : Half) (reg op : Byte) : regField (formatS len reg op) = reg := by
  unfold regField formatS
  ext i hi
  simp only [BitVec.getElem_extractLsb', BitVec.getLsbD_append]
  simp [show ¬ (8 + i < 8) by omega, hi]

/-- LEN of a format S word (R100). -/
theorem lenField_formatS (len : Half) (reg op : Byte) : lenField (formatS len reg op) = len := by
  unfold lenField formatS
  ext i hi
  simp only [BitVec.getElem_extractLsb', BitVec.getLsbD_append]
  simp [show ¬ (16 + i < 8) by omega, show ¬ (16 + i - 8 < 8) by omega, show 16 + i - 8 - 8 = i by omega, hi]

/-- The byte lanes of a word make the word again (R71). -/
theorem wordLanes_append (w : Word) : byteLane w 3 ++ byteLane w 2 ++ byteLane w 1 ++ byteLane w 0 = w := by
  unfold byteLane
  ext i hi
  simp only [BitVec.getElem_append, BitVec.getElem_extractLsb']
  split_ifs
  · simp [BitVec.getLsbD_eq_getElem, hi]
  · rw [← BitVec.getLsbD_eq_getElem]; congr 1; omega
  · rw [← BitVec.getLsbD_eq_getElem]; congr 1; omega
  · rw [← BitVec.getLsbD_eq_getElem]; congr 1; omega

/-- Decoding the lanes of a word is decoding the word (R71). -/
theorem decodeBytes_wordLanes (p : Port) (w : Word) : decodeBytes p (wordLanes w) = decode p w := by
  show decode p _ = _
  rw [wordLanes_append]

/-! ## Configurations and accesses -/

/-- R9, constraint by constraint. -/
theorem Config.inRange_iff (c : Config) : c.inRange = true ↔ (1 ≤ c.maxPattern ∧ 1 ≤ c.baseDelay ∧
    c.baseDelay * c.maxPattern ≤ 2^32-1 ∧ ∀ l, c.pollLimit = some l → 1 ≤ l ∧ l ≤ 2^32-1) ∧
    c.fixedAsStated = true := by
  unfold Config.inRange pollLimitInRange
  cases c.pollLimit <;> simp [and_assoc]

/-- The values R8 fixes, in a configuration that has a meaning. -/
theorem Config.fixed_of_inRange {c : Config} (h : c.inRange = true) : c.stagingSize = 256 ∧
    c.maxWritePayload = 255 ∧ c.rxSize = 256 ∧ c.debounceWidth = 32 ∧ c.drdyBit = 0 ∧ c.tempBias = 25 := by
  simpa [Config.fixedAsStated, and_assoc] using ((Config.inRange_iff c).1 h).2

/-- The debounce counter is a 32-bit counter that wraps (R36). -/
theorem nextDebounce_toNat {c : Config} (h : c.inRange = true) (d : Word) :
    (nextDebounce c d).toNat = (d.toNat + 1) % 2 ^ 32 := by
  unfold nextDebounce
  rw [(Config.fixed_of_inRange h).2.2.2.1, BitVec.toNat_ofNat, Nat.mod_mod]

/-- An aligned 32-bit access inside the window is allowed and reaches its offset (R72). -/
theorem accessOffset_of_allowed (c : Config) (o : Nat) (h : o ≤ 0xFFF)
    (h4 : o % 4 = 0) : accessOffset c (c.baseAddr + o) 4 = some o := by
  unfold accessOffset
  rw [if_pos ⟨rfl, by omega, by omega, by simpa using h4⟩]; simp

/-- What an allowed access is (R72). -/
theorem accessOffset_some {c : Config} {addr size o : Nat} (h : accessOffset c addr size = some o) : size = 4 ∧
    addr = c.baseAddr + o ∧ o ≤ 0xFFF ∧ o % 4 = 0 := by
  unfold accessOffset at h
  split at h
  · rename_i hh; cases h; omega
  · cases h

/-- A command register stands at its offset (R22). -/
theorem portAt_offset (p : Port) : portAt p.offset = some p := by cases p <;> rfl

/-- The command register at an offset is the one with that offset (R22). -/
theorem portAt_some {o p} (h : portAt o = some p) : o = p.offset := by
  unfold portAt at h; split at h <;> cases h <;> rfl

/-- No other offset holds a command register (R22). -/
theorem portAt_none {o : Nat} (h0 : o ≠ 0) (h1 : o ≠ 0x20) : portAt o = none := by
  unfold portAt; split <;> simp_all

/-- S_TXBUF has 256 entries (R40). -/
theorem txIndex_some {o i} (h : txIndex o = some i) : i < 256 := by
  unfold txIndex at h; split at h
  · cases h; omega
  · cases h

/-- Zero extension to a register is the number. -/
theorem setWidth_ofNat {n : Nat} (v : BitVec n) : v.setWidth 32 = BitVec.ofNat 32 v.toNat := by
  apply BitVec.eq_of_toNat_eq; simp

/-- Above the named registers a read is a read of the buffers (R22). -/
theorem readRegister_other (s : State) (o : Nat) (d : Byte) (h : 0x038 ≤ o) : readRegister s o d = readBuffers
    s.sensor o d := by
  unfold readRegister
  split <;> first | omega | rfl

/-- S_TXBUF[i] at its offset (R40). -/
theorem readBuffers_tx (e : Sensor) (i : Nat) (d : Byte) (h : i < 256) : readBuffers e (0x400 + 4*i) d =
    byteRegister (e.txbuf.read i) := by
  unfold readBuffers txIndex
  rw [if_pos (by omega)]
  simp

/-- S_RXBUF[i] at its offset (R41, R76). -/
theorem readBuffers_rx (e : Sensor) (i : Nat) (d : Byte) (h : i < 256) : readBuffers e (0x800 + 4*i) d =
    byteRegister (if e.busy then d else e.rxbuf.read i) := by
  unfold readBuffers txIndex rxIndex
  rw [if_neg (by omega), if_pos (by omega)]
  simp

/-- Reserved offsets read 0 (R74). -/
theorem readBuffers_none (e : Sensor) (o : Nat) (d : Byte) (h : o < 0x400 ∨ 0xBFC < o) : readBuffers e o d = 0 := by
  unfold readBuffers txIndex rxIndex
  rw [if_neg (by omega), if_neg (by omega)]

/-! ## Writes to S_CMD -/

/-- An idle engine is not BUSY (R24). -/
theorem busy_of_idle {e : Sensor} (h : e.ctl = .idle) : e.busy = false := by unfold Sensor.busy; rw [h]

/-- A running engine is BUSY (R24). -/
theorem busy_of_run {e : Sensor} {r} (h : e.ctl = .run r) : e.busy = true := by unfold Sensor.busy; rw [h]

/-- BUSY is 1 exactly while `s_ctl` runs (R24). -/
theorem busy_iff {e : Sensor} : e.busy = true ↔ ∃ r, e.ctl = .run r := by unfold Sensor.busy; split <;> simp_all

/-- BUSY is 0 exactly while `s_ctl` is IDLE (R24). -/
theorem not_busy_iff {e : Sensor} : e.busy = false ↔ e.ctl = .idle := by unfold Sensor.busy; split <;> simp_all

/-- Dropped with OVR while BUSY (R25). -/
theorem issueSensor_busy (c f) {s : State} (h : s.sensor.busy = true) : issueSensor c f s = { s with sensor := { s.sensor with ovr := true } } := by
  unfold issueSensor; rw [if_pos h]

/-- A reject other than FATAL (R155, R221). -/
theorem issueSensor_reject {c} (f) {s : State} (h : s.sensor.busy = false)
    (hc : c ≠ .fatal) : issueSensor (some c) f s = rejectedWith c s := by
  unfold issueSensor; rw [if_neg (by simp [h])]; simp only [rejectSensor]; rw [if_neg (by simp [hc])]; rfl

/-- A FATAL reject and its once-only report (R224). -/
theorem issueSensor_fatal (f) {s : State} (h : s.sensor.busy = false) : issueSensor (some .fatal) f s = 
   { s with
        sensor := { s.sensor with ovr := false, result := .fatal, fatalReported := true }
        diag := if s.sensor.fatalReported then s.diag else s.diag ++ [{ kind := .fatalBus, value := 0 }] } := by
  unfold issueSensor; rw [if_neg (by simp [h])]; simp only [rejectSensor]
  cases hf : s.sensor.fatalReported
  · rw [if_pos (by simp)]; simp [diagnose]
  · rw [if_neg (by simp)]; simp

/-- An accept (R155). -/
theorem issueSensor_accept (f) {s : State} (h : s.sensor.busy = false) : issueSensor none f s = { s with sensor := f { s.sensor with ovr := false, shortLatch := false, pollN := 0, lastCount := none } } := by
  unfold issueSensor; rw [if_neg (by simp [h])]

/-- A reject touches the sensor engine and the diagnostic port only. -/
theorem rejectSensor_frame (c : ResultCode) (s : State) :
    (rejectSensor c s).led = s.led ∧ (rejectSensor c s).config = s.config ∧
        (rejectSensor c s).hostErrors = s.hostErrors ∧
    (rejectSensor c s).reads = s.reads ∧ (rejectSensor c s).program = s.program ∧
        (rejectSensor c s).schedule = s.schedule := by
  unfold rejectSensor; dsimp only; split <;> simp

/-- A write to S_CMD touches the sensor engine and the diagnostic port only (R136). -/
theorem issueSensor_frame (c : Option ResultCode) (f : Sensor → Sensor) (s : State) :
    (issueSensor c f s).led = s.led ∧ (issueSensor c f s).config = s.config ∧
        (issueSensor c f s).hostErrors = s.hostErrors ∧
    (issueSensor c f s).reads = s.reads ∧ (issueSensor c f s).program = s.program ∧
        (issueSensor c f s).schedule = s.schedule := by
  unfold issueSensor; dsimp only
  split
  · simp
  · split
    · exact rejectSensor_frame _ _
    · simp

/-- FATAL is reported only without the bus (R222). -/
theorem rejectCode_fatal {c e i} (h : rejectCode c e i = some .fatal) : c.busAvailable = false := by
  unfold rejectCode at h
  by_contra hb
  rw [if_neg hb] at h
  cases i <;> simp only at h <;> (try split at h) <;> (try split at h) <;> cases h

/-- What an accepted command latches: a possible run, before its first transaction. -/
structure Accepts (s : State) (r : Running) (st : Memory) : Prop where
  st : bufferOk s.sensor.staging → bufferOk st
  ok : runningOk s.config s.sensor r
  nopend : ∀ e : Sensor, e.ctl = .run r → pendingRead s.config e = none

/-- A write to S_CMD while not BUSY (R155). -/
theorem issueSensor_cases {c : Option ResultCode} {f} {s t : State}
    (h : t = issueSensor c f s) (hf : c = some .fatal → s.config.busAvailable = false)
   (ha : c = none → s.config.busAvailable = true ∧ ∃ r st, Accepts s r st ∧ issueSensor none f s = acceptedAs r { s with sensor := { s.sensor with staging := st } }) (hb : s.sensor.busy = false) :
   ((∃ code, code ≠ .fatal ∧ t = rejectedWith code s) ∨ (s.config.busAvailable = false ∧ t = { s with
        sensor := { s.sensor with ovr := false, result := .fatal, fatalReported := true }
        diag := if s.sensor.fatalReported then s.diag else s.diag ++ [{ kind := .fatalBus, value := 0 }] }) ∨
      (s.config.busAvailable = true ∧ ∃ r st, Accepts s r st ∧ t = acceptedAs r { s with sensor := { s.sensor with staging := st } })) := by
  cases c with
  | none =>
    obtain ⟨h1, r, st, h2, h3⟩ := ha rfl
    right; right; exact ⟨h1, r, st, h2, by rw [h, h3]⟩
  | some c =>
    by_cases hc : c = .fatal
    · subst hc; right; left; exact ⟨hf rfl, by rw [h, issueSensor_fatal _ hb]⟩
    · left; exact ⟨c, hc, by rw [h, issueSensor_reject _ hb hc]⟩

/-! ## Commands -/

/-- Every sensor command is a write to S_CMD judged by its reject conditions (R155, R222). -/
theorem exec_sensor_issue {i : Instr} (h : i ≠ .startLed) (s : State) : ∃ f,
    exec i s = .next (issueSensor (rejectCode s.config s.sensor i) f s) := by
  cases i <;> first | exact ⟨_, rfl⟩ | exact absurd rfl h

/-- Every command answers a next state: the block has no trap (R227). -/
theorem exec_next (i : Instr) (s : State) : ∃ t, exec i s = .next t := by
  cases i <;> exact ⟨_, rfl⟩

/-- START_LED leaves the sensor engine and the agents' data (R136). -/
theorem execStartLed_frame (s t : State) (h : exec .startLed s = .next t) : t.sensor = s.sensor ∧
    t.config = s.config ∧ t.hostErrors = s.hostErrors ∧
   t.reads = s.reads ∧ t.program = s.program ∧ t.schedule = s.schedule := by
  simp only [exec, execStartLed] at h
  cases hs : s.led.state <;> simp only [hs] at h
  · split at h <;> cases h <;> simp
  · cases h; simp
  · cases h; simp

/-- A command leaves the configuration and the agents' data. -/
theorem exec_frame (i : Instr) (s t : State) (h : exec i s = .next t) : t.config = s.config ∧
    t.hostErrors = s.hostErrors ∧
   t.reads = s.reads ∧ t.program = s.program ∧ t.schedule = s.schedule := by
  by_cases hi : i = .startLed
  · subst hi; exact (execStartLed_frame s t h).2
  · obtain ⟨f, hf⟩ := exec_sensor_issue hi s
    rw [hf] at h; cases h
    exact (issueSensor_frame _ _ _).2

/-- Everything START_LED can do (R121). -/
theorem execStartLed_cases {s t : State} (h : exec .startLed s = .next t) : t.sensor = s.sensor ∧
    t.config = s.config ∧
   ((s.led.state = .idle ∧ s.config.irqAvailable = true ∧ t.led = { startCycle s.config s.led with state := .running, lresult := .ok } ∧ t.diag = s.diag) ∨
    (s.led.state = .idle ∧ s.config.irqAvailable = false ∧ t.led = { s.led with state := .fatal, lresult := .fatal } ∧ t.diag = s.diag ++ [{ kind := .fatalIrq, value := 0 }]) ∨
    (s.led.state = .running ∧ t.led = { s.led with lresult := .seq } ∧ t.diag = s.diag) ∨
    (s.led.state = .fatal ∧ t.led = { s.led with lresult := .fatal } ∧ t.diag = s.diag)) := by
  simp only [exec, execStartLed] at h
  cases hs : s.led.state <;> simp only [hs] at h
  · cases hi : s.config.irqAvailable <;> simp only [hi] at h <;> cases h <;> simp [hs]
  · cases h; simp [hs]
  · cases h; simp [hs]

/-- Everything a word that spells no command can do (R106). -/
theorem illegalCommand_cases (p : Port) (s : State) : 
    (∃ l, l = ResultCode.illegal ∧ illegalCommand p s = { s with led := { s.led with lresult := l } }) ∨ (s.sensor.busy = true ∧ illegalCommand p s = { s with sensor := { s.sensor with ovr := true } }) ∨ (s.sensor.busy = false ∧ illegalCommand p s = rejectedWith .illegal s) := by
  cases p
  · right
    cases hb : s.sensor.busy
    · right; exact ⟨rfl, issueSensor_reject (fun e => e) hb (by decide)⟩
    · left; exact ⟨rfl, issueSensor_busy (some .illegal) (fun e => e) hb⟩
  · left; exact ⟨_, rfl, rfl⟩

/-- A word that spells no command leaves the configuration and the agents' data. -/
theorem illegalCommand_frame (p : Port) (s : State) : (illegalCommand p s).config = s.config ∧
    (illegalCommand p s).hostErrors = s.hostErrors ∧
   (illegalCommand p s).reads = s.reads ∧ (illegalCommand p s).program = s.program ∧
       (illegalCommand p s).schedule = s.schedule := by
  cases p
  · exact (issueSensor_frame _ _ _).2
  · simp [illegalCommand]

/-- A write to S_TXBUF leaves the configuration and the agents' data. -/
theorem writeBuffers_frame (o v) (s : State) : (writeBuffers o v s).config = s.config ∧
    (writeBuffers o v s).hostErrors = s.hostErrors ∧
   (writeBuffers o v s).reads = s.reads ∧ (writeBuffers o v s).program = s.program ∧
       (writeBuffers o v s).schedule = s.schedule := by
  unfold writeBuffers; split <;> simp

/-- The write of a decodable word to its register runs the command (R108). -/
theorem hostWrite_port (s : State) (p : Port) (w : Word) (i : Instr) (hd : decode p w = .ok i) :
    hostWrite (s.config.baseAddr + p.offset) 4 w s = exec i s := by
  unfold hostWrite
  rw [accessOffset_of_allowed _ _ (by cases p <;> decide) (by cases p <;> decide)]
  simp [writeRegister, portAt_offset, writeCommand, hd]

/-- Every allowed write answers a next state. -/
theorem writeRegister_next (o : Nat) (v : Word) (s : State) : ∃ t, writeRegister o v s = .next t := by
  unfold writeRegister
  split
  · unfold writeCommand
    split
    · exact exec_next _ _
    · exact ⟨_, rfl⟩
  · exact ⟨_, rfl⟩

/-- An allowed write leaves the configuration and the agents' data, and records no fault. -/
theorem writeRegister_frame (o v) (s t : State) (h : writeRegister o v s = .next t) : t.config = s.config ∧
    t.hostErrors = s.hostErrors ∧
   t.reads = s.reads ∧ t.program = s.program ∧ t.schedule = s.schedule := by
  unfold writeRegister at h
  split at h
  · unfold writeCommand at h
    split at h
    · exact exec_frame _ _ _ h
    · cases h; exact illegalCommand_frame _ _
  · cases h; exact writeBuffers_frame _ _ _

/-- Everything a sensor command's write can do (R25, R155, R224). -/
theorem exec_sensor_cases {i : Instr} (hi : i ≠ .startLed) {s t : State} (hr : s.config.inRange = true)
   (h : exec i s = .next t) :
   (s.sensor.busy = true ∧ t = { s with sensor := { s.sensor with ovr := true } }) ∨
   (s.sensor.busy = false ∧ ((∃ code, code ≠ .fatal ∧ t = rejectedWith code s) ∨ (s.config.busAvailable = false ∧ t = { s with
        sensor := { s.sensor with ovr := false, result := .fatal, fatalReported := true }
        diag := if s.sensor.fatalReported then s.diag else s.diag ++ [{ kind := .fatalBus, value := 0 }] }) ∨
      (s.config.busAvailable = true ∧ ∃ r st, Accepts s r st ∧ t = acceptedAs r { s with sensor := { s.sensor with staging := st } }))) := by
  cases hb : s.sensor.busy
  · right; refine ⟨rfl, ?_⟩
    have hidle := not_busy_iff.1 hb
    have hav : ∀ {i}, rejectCode s.config s.sensor i = none → s.config.busAvailable = true := by
      intro i h; unfold rejectCode at h; by_contra hh; rw [if_pos (by simpa using hh)] at h; cases h
    have st0 : ∀ {r}, runningOk s.config s.sensor r → (∀ e : Sensor, e.ctl = .run r → pendingRead s.config e = none) → Accepts s r s.sensor.staging := fun h1 h2 => ⟨id, h1, h2⟩
    cases i with
    | readReg reg len =>
      cases h
      refine issueSensor_cases rfl rejectCode_fatal (fun hn => ⟨hav hn, .readReg reg len .start,
          s.sensor.staging, st0 ?_ ?_, issueSensor_accept _ hb⟩) hb
      · simp only [rejectCode, hav hn] at hn
        rw [if_neg (by simp)] at hn
        split at hn
        · cases hn
        · rename_i h1; split at hn
          · cases hn
          · rename_i h2; rw [(Config.fixed_of_inRange hr).2.2.1] at h2; exact ⟨by simpa using h1, by omega, by omega, trivial⟩
      · intro e he; unfold pendingRead; rw [he]; rfl
    | writeReg reg len =>
      cases h
      refine issueSensor_cases rfl rejectCode_fatal (fun hn => ⟨hav hn, .writeReg reg len .start,
          s.sensor.staging.writeBytes 0 (reg :: s.sensor.txbuf.readBytes len.toNat), ⟨?_, ?_, ?_⟩,
          issueSensor_accept _ hb⟩) hb
      · intro hs
        refine ⟨Memory.writeBytes_wf hs.1 _ _, Memory.writeBytes_below hs.2 ?_⟩
        simp only [rejectCode, hav hn] at hn
        rw [if_neg (by simp)] at hn
        split at hn
        · cases hn
        · split at hn
          · cases hn
          · rename_i h2; rw [(Config.fixed_of_inRange hr).2.1] at h2
            simp [Memory.readBytes]; omega
      · simp only [rejectCode, hav hn] at hn
        rw [if_neg (by simp)] at hn
        split at hn
        · cases hn
        · rename_i h1; split at hn
          · cases hn
          · rename_i h2; rw [(Config.fixed_of_inRange hr).2.1] at h2; exact ⟨by simpa using h1, by omega, trivial⟩
      · intro e he; unfold pendingRead; rw [he]
    | resolveAddr =>
      cases h
      refine issueSensor_cases rfl rejectCode_fatal (fun hn => ⟨hav hn, .resolveAddr (.high .start),
          s.sensor.staging, st0 ?_ ?_, issueSensor_accept _ hb⟩) hb
      · simp only [rejectCode, hav hn] at hn
        rw [if_neg (by simp)] at hn
        split at hn
        · cases hn
        · rename_i h1; exact ⟨by simpa using h1, trivial⟩
      · intro e he; unfold pendingRead; rw [he]; rfl
    | init =>
      cases h
      refine issueSensor_cases rfl rejectCode_fatal (fun hn => ⟨hav hn, .init .start, s.sensor.staging,
          st0 ?_ ?_, issueSensor_accept _ hb⟩) hb
      · simp only [rejectCode, hav hn] at hn
        rw [if_neg (by simp)] at hn
        split at hn
        · cases hn
        · rename_i h1; exact (by simpa using h1 : s.sensor.initialized = false)
      · intro e he; unfold pendingRead; rw [he]
    | readTemp =>
      cases h
      refine issueSensor_cases rfl rejectCode_fatal (fun hn => ⟨hav hn, .readTemp .start, s.sensor.staging,
          st0 ?_ ?_, issueSensor_accept _ hb⟩) hb
      · simp only [rejectCode, hav hn] at hn
        rw [if_neg (by simp)] at hn
        split at hn
        · rename_i h1; exact ⟨h1, trivial⟩
        · cases hn
      · intro e he; unfold pendingRead; rw [he]; rfl
    | awaitDrdy =>
      cases h
      refine issueSensor_cases rfl rejectCode_fatal (fun hn => ⟨hav hn, .awaitDrdy .start, s.sensor.staging,
          st0 ?_ ?_, issueSensor_accept _ hb⟩) hb
      · simp only [rejectCode, hav hn] at hn
        rw [if_neg (by simp)] at hn
        split at hn
        · rename_i h1; exact ⟨h1, trivial⟩
        · cases hn
      · intro e he; unfold pendingRead; rw [he]; rfl
    | readMotion =>
      cases h
      refine issueSensor_cases rfl rejectCode_fatal (fun hn => ⟨hav hn, .readMotion (.await .start),
          s.sensor.staging, st0 ?_ ?_, issueSensor_accept _ hb⟩) hb
      · simp only [rejectCode, hav hn] at hn
        rw [if_neg (by simp)] at hn
        split at hn
        · rename_i h1; exact ⟨h1, trivial⟩
        · cases hn
      · intro e he; unfold pendingRead; rw [he]; rfl
    | startLed => exact absurd rfl hi
  · left
    obtain ⟨f, hf⟩ := exec_sensor_issue hi s
    rw [hf] at h; cases h
    exact ⟨rfl, issueSensor_busy _ _ hb⟩

/-! ## Agents -/

/-- R9 keeps every period in 32 bits (R129). -/
theorem periodOf_bound {c : Config} (h : c.inRange = true) {p : Nat}
    (hp : p < c.maxPattern) : c.baseDelay * (p+1) < 2^32 := by
  have := ((Config.inRange_iff c).1 h).1.2.2.1
  have := Nat.mul_le_mul_left c.baseDelay (show p+1 ≤ c.maxPattern from hp)
  omega

/-- The period without overflow (R129). -/
theorem periodOf_toNat {c : Config} (h : c.inRange = true) {p : Word}
    (hp : p.toNat < c.maxPattern) : (periodOf c p).toNat = c.baseDelay * (p.toNat + 1) := by
  unfold periodOf; rw [BitVec.toNat_ofNat, Nat.mod_eq_of_lt (periodOf_bound h hp)]

/-- MAX_PATTERN fits 32 bits (R9). -/
theorem maxPattern_bound {c : Config} (h : c.inRange = true) : c.maxPattern < 2^32 := by
  have h := ((Config.inRange_iff c).1 h).1
  have := Nat.le_mul_of_pos_left c.maxPattern (show 0 < c.baseDelay from h.2.1)
  omega

/-- One tick off a count that is not 0. -/
theorem toNat_sub_one {w : Word} (h : 1 ≤ w.toNat) : (w - 1).toNat = w.toNat - 1 := by
  rw [BitVec.toNat_sub]; have := w.isLt; simp; omega

/-- What a BTN step leaves as it is, and `btn_q` after it (R124). -/
theorem btnStep_frame (b : Bool) (s : State) : (btnStep b s).config = s.config ∧
    (btnStep b s).sensor = s.sensor ∧ (btnStep b s).hostErrors = s.hostErrors ∧ (btnStep b s).reads = s.reads ∧
    (btnStep b s).program = s.program ∧ (btnStep b s).schedule = s.schedule ∧
   (btnStep b s).led.state = s.led.state ∧ (btnStep b s).led.ticks = s.led.ticks ∧
       (btnStep b s).led.period = s.led.period ∧ (btnStep b s).led.phase = s.led.phase ∧
       (btnStep b s).led.ledA = s.led.ledA ∧ (btnStep b s).led.ledB = s.led.ledB ∧
       (btnStep b s).led.lresult = s.led.lresult ∧ (btnStep b s).led.btnQ = b := by
  unfold btnStep
  dsimp only
  split
  · unfold pressHandler; dsimp only; split <;> exact ⟨rfl,rfl,rfl,rfl,rfl,rfl,rfl,rfl,rfl,rfl,rfl,rfl,rfl,rfl⟩
  · exact ⟨rfl,rfl,rfl,rfl,rfl,rfl,rfl,rfl,rfl,rfl,rfl,rfl,rfl,rfl⟩

/-- What a BLINK tick leaves as it is (R131). -/
theorem blinkTick_frame (s : State) : (blinkTick s).config = s.config ∧ (blinkTick s).sensor = s.sensor ∧
    (blinkTick s).hostErrors = s.hostErrors ∧ (blinkTick s).reads = s.reads ∧
    (blinkTick s).program = s.program ∧ (blinkTick s).schedule = s.schedule ∧ (blinkTick s).diag = s.diag ∧
    (blinkTick s).led.state = s.led.state ∧ (blinkTick s).led.pattern = s.led.pattern ∧
    (blinkTick s).led.debounce = s.led.debounce ∧ (blinkTick s).led.btnQ = s.led.btnQ ∧
    (blinkTick s).led.lresult = s.led.lresult := by
  unfold blinkTick
  split
  · unfold tickLed; dsimp only; split
    · split <;> exact ⟨rfl,rfl,rfl,rfl,rfl,rfl,rfl,by simp_all,rfl,rfl,rfl,rfl⟩
    · exact ⟨rfl,rfl,rfl,rfl,rfl,rfl,rfl,by simp_all,rfl,rfl,rfl,rfl⟩
  · exact ⟨rfl,rfl,rfl,rfl,rfl,rfl,rfl,rfl,rfl,rfl,rfl,rfl⟩
  · exact ⟨rfl,rfl,rfl,rfl,rfl,rfl,rfl,rfl,rfl,rfl,rfl,rfl⟩

/-- Every agent's step answers a next state. -/
theorem agentStep_next (a : AgentStep) (s : State) : ∃ t, agentStep a s = .next t := by
  cases a with
  | host d =>
    simp only [agentStep, hostStep]
    split
    · exact ⟨_, rfl⟩
    · unfold hostWrite; split
      · exact writeRegister_next _ _ _
      · exact ⟨_, rfl⟩
    · exact ⟨_, rfl⟩
    · split <;> exact ⟨_, rfl⟩
  | _ => exact ⟨_, rfl⟩

/-- A read of an aligned offset of the window binds its name to the register's value and does nothing else (R72, R73). -/
theorem hostRead_of_allowed (o : Nat) (name : String) (d : Byte) (s : State) (h : o ≤ 0xFFF) (h4 : o % 4 = 0) :
    hostRead (s.config.baseAddr + o) 4 name d s =
      { s with reads := s.reads ++ [{ name := name, value := readRegister s o d }] } := by
  unfold hostRead
  rw [accessOffset_of_allowed _ _ h h4]

/-- S_STATUS[0] is BUSY (R23). -/
theorem readRegister_busy (s : State) (d : Byte) : (readRegister s 0x004 d).getLsbD 0 = s.sensor.busy := by
  show (sStatus s.config s.sensor).getLsbD 0 = _
  unfold sStatus flagBit
  simp only [BitVec.getLsbD_append]; simp

/-- HOST's turn at a WAITIDLE: one read of S_STATUS to the name `s`, then on if BUSY is 0 (R109). -/
theorem hostStep_waitIdle {s : State} {ops : List HostOp} (h : s.program = .waitIdle :: ops) (d : Byte) :
    hostStep d s = .next
      { s with
        reads := s.reads ++ [{ name := "s", value := readRegister s 0x004 d }]
        program := if s.sensor.busy then s.program else ops } := by
  unfold hostStep
  rw [h]
  dsimp only
  rw [hostRead_of_allowed 0x004 "s" d s (by decide) (by decide), readRegister_busy]
  cases s.sensor.busy
  · rfl
  · simp [h]

/-- Everything HOST's step can do to the block (R72 to R76). -/
theorem hostStep_cases (d : Byte) (s t : State) (h : hostStep d s = .next t) :
   (t.sensor = s.sensor ∧ t.led = s.led ∧ t.diag = s.diag ∧ t.config = s.config) ∨
   (∃ i v, i < 256 ∧ t.sensor = { s.sensor with txbuf := s.sensor.txbuf.write i v } ∧ t.led = s.led ∧ t.diag = s.diag ∧ t.config = s.config) ∨
   (∃ p w ops i, s.program = .memWrite (s.config.baseAddr + p.offset) 4 w :: ops ∧ decode p w = .ok i ∧ exec i { s with program := ops } = .next t) ∨
   (∃ p ops, t = illegalCommand p { s with program := ops }) := by
  unfold hostStep at h
  split at h
  · cases h; left; exact ⟨rfl,rfl,rfl,rfl⟩
  · rename_i addr size v rest hp
    unfold hostWrite at h
    split at h
    · rename_i o ho
      obtain ⟨rfl, rfl, h1, h2⟩ := accessOffset_some ho
      unfold writeRegister at h
      split at h
      · rename_i p hpo
        have := portAt_some hpo
        subst this
        unfold writeCommand at h
        split at h
        · rename_i i hd; right; right; left; exact ⟨p, v, rest, i, hp, hd, h⟩
        · right; right; right; cases h; exact ⟨p, rest, rfl⟩
      · cases h
        unfold writeBuffers
        split
        · rename_i i hi; right; left; exact ⟨i, _, txIndex_some hi, rfl, rfl, rfl, rfl⟩
        · left; exact ⟨rfl,rfl,rfl,rfl⟩
    · cases h; left; exact ⟨rfl,rfl,rfl,rfl⟩
  · cases h; left; unfold hostRead; split <;> exact ⟨rfl,rfl,rfl,rfl⟩
  · dsimp only at h
    rw [hostRead_of_allowed 0x004 "s" d s (by decide) (by decide)] at h
    split at h <;> cases h <;> exact Or.inl ⟨rfl,rfl,rfl,rfl⟩

/-- A step is no step or the scheduled agent's step (R84). -/
theorem step_next_cases {s t : State} (h : step s = .next t) : s.config.inRange = true ∧ ((s.schedule = [] ∧ t = s) ∨ ∃ a rest, s.schedule = a :: rest ∧ agentStep a { s with schedule := rest } = .next t) := by
  unfold step at h
  split at h
  · rename_i hc
    refine ⟨hc, ?_⟩
    split at h
    · rename_i hs; cases h; exact Or.inl ⟨hs, rfl⟩
    · rename_i a rest hs; exact Or.inr ⟨a, rest, hs, h⟩
  · cases h

end Sys2Proof.Machine
end

