-- ==== Sys2Proof/Laws/PerInstr.lean ====
section
/-! SUPPORT. One statement about every command as syntax, proved command by command. -/

namespace Sys2Proof.Laws

/-- The command's row of spec/opcode_table.json: the register its word is written to, and `match` under the mask 0xFF. -/
def tableRow : Instr → Port × Word
  | .readReg _ _ => (.sCmd, 0x00000001)
  | .writeReg _ _ => (.sCmd, 0x00000002)
  | .resolveAddr => (.sCmd, 0x00000003)
  | .init => (.sCmd, 0x00000004)
  | .readTemp => (.sCmd, 0x00000005)
  | .awaitDrdy => (.sCmd, 0x00000006)
  | .readMotion => (.sCmd, 0x00000007)
  | .startLed => (.lCmd, 0x00000001)

/-- The bits of a format S word under the mask 0xFF are its OP. -/
theorem formatS_and_mask (len : Half) (reg op : Byte) : formatS len reg op &&& 0xFF = op.setWidth 32 := by
  apply BitVec.eq_of_getLsbD_eq
  intro i hi
  have mask : BitVec.getLsbD (0xFF : Word) i = decide (i < 8) := by
    interval_cases i <;> decide
  simp only [formatS, BitVec.getLsbD_and, BitVec.getLsbD_append, BitVec.getLsbD_setWidth]
  by_cases h : i < 8
  · simp only [mask, h, hi, decide_true, if_true, Bool.and_true, Bool.true_and]
  · simp only [mask, h, decide_false, Bool.and_false]
    simp [BitVec.getLsbD_of_ge op i (by omega)]

/-- The encoder agrees with the opcode table on the command's row. -/
def RowMatch.Statement (i : Instr) : Prop :=
  (encode i).1 = (tableRow i).1 ∧ (encode i).2 &&& 0xFF = (tableRow i).2

theorem RowMatch.readReg (reg : Byte) (len : Half) : RowMatch.Statement (.readReg reg len) :=
  ⟨rfl, formatS_and_mask len reg 0x01⟩

theorem RowMatch.writeReg (reg : Byte) (len : Half) : RowMatch.Statement (.writeReg reg len) :=
  ⟨rfl, formatS_and_mask len reg 0x02⟩

theorem RowMatch.resolveAddr : RowMatch.Statement .resolveAddr := ⟨rfl, by decide⟩

theorem RowMatch.init : RowMatch.Statement .init := ⟨rfl, by decide⟩

theorem RowMatch.readTemp : RowMatch.Statement .readTemp := ⟨rfl, by decide⟩

theorem RowMatch.awaitDrdy : RowMatch.Statement .awaitDrdy := ⟨rfl, by decide⟩

theorem RowMatch.readMotion : RowMatch.Statement .readMotion := ⟨rfl, by decide⟩

theorem RowMatch.startLed : RowMatch.Statement .startLed := ⟨rfl, by decide⟩

end Sys2Proof.Laws
end

