-- ==== Sys2Proof/Laws/Runs.lean ====
section
/-! SUPPORT. The runs the commands share (register reads, INIT's loop, `await`, an axis),
    and everything a SENSOR step can do. -/

namespace Sys2Proof.Machine

/-! ## Steps in a row -/

/-- SENSOR steps in a row on the engine alone. -/
def sensorRun (c : Config) : List BusDraw → Sensor → Sensor
  | [], e => e
  | d :: ds, e => sensorRun c ds (stepSensor c d e)

/-- SENSOR steps touch the sensor engine alone (R136). -/
theorem sensorSteps_eq (ds : List BusDraw) (s : State) : sensorSteps ds s = { s with sensor := sensorRun s.config ds s.sensor } := by
  induction ds generalizing s with
  | nil => rfl
  | cons d ds ih => rw [sensorSteps, ih]; rfl

/-- Steps in a row, cut in two. -/
theorem sensorRun_append (c) (l1 l2 : List BusDraw) (e) : sensorRun c
    (l1 ++ l2) e = sensorRun c l2 (sensorRun c l1 e) := by
  induction l1 generalizing e with
  | nil => rfl
  | cons d ds ih => exact ih _

/-! ## One-byte register reads -/

/-- A one-byte write sent its byte, as two tests. -/
theorem decide_min_one (n : Nat) : (decide (min n 1 = 1)) = decide (1 ≤ n) := by congr 1; simp only [eq_iff_iff]; omega

/-- A one-byte register read is not short exactly if it was answered (R158). -/
theorem readOk_answered (w r : BusDraw) : readOk 1 (min w.sent 1) (r.data.take 1).length = (answered w r).isSome := by
  unfold readOk answered
  rw [decide_min_one]
  by_cases h : 1 ≤ w.sent
  · rw [if_pos h]; cases r.data <;> simp [h]
  · rw [if_neg h]; simp [h]

/-- The answered byte is S_RXBUF[0] (R152). -/
theorem read_zero_answered {m : Memory} (hm : Memory.wf m) {w r : BusDraw} {b : Byte} (h : answered w r = some b) : 
   (Memory.writeBytes m 0 (r.data.take 1)).read 0 = b := by
  unfold answered at h
  split at h
  · cases hd : r.data with
    | nil => simp [hd] at h
    | cons x l => 
      simp [hd] at h; subst h
      rw [Memory.read_writeBytes hm]; simp
  · cases h

/-- An identity read matches exactly if it answered WHO_AM_I_VALUE (R181). -/
theorem identityMatches_answered (c : Config) {m : Memory} (hm : Memory.wf m)
    (w r : BusDraw) {e : Sensor} (he : e.rxbuf = Memory.writeBytes m 0 (r.data.take 1)) :
   identityMatches c (min w.sent 1) (r.data.take 1).length e = decide (answered w r = some c.whoAmIValue) := by
  unfold identityMatches
  rw [readOk_answered]
  cases h : answered w r with
  | none => simp
  | some b => simp [rx0, he, read_zero_answered hm h]

/-- A poll is ready exactly if it saw the bit (R193). -/
theorem pollReady_answered {m : Memory} (hm : Memory.wf m) (c : Config) (w r : BusDraw)
    {e : Sensor} (he : e.rxbuf = Memory.writeBytes m 0 (r.data.take 1)) :
   pollReady c (min w.sent 1) (r.data.take 1).length e = sawReady c (w, r) := by
  unfold pollReady sawReady
  rw [readOk_answered]
  cases h : answered w r with
  | none => simp
  | some b => simp [rx0, he, read_zero_answered hm h]

/-- An answered read received one byte. -/
theorem answered_length {w r : BusDraw} {b : Byte} (h : answered w r = some b) : (r.data.take 1).length = 1 := by
  unfold answered at h
  split at h
  · cases hd : r.data with
    | nil => simp [hd] at h
    | cons x l => simp
  · cases h

/-- Not answered is short. -/
theorem not_isSome {α} (o : Option α) : (!o.isSome) = o.isNone := by cases o <;> rfl

/-- Reads in a row keep S_RXBUF canonical. -/
theorem readBuffer_wf {m : Memory} (h : Memory.wf m) (l) : Memory.wf (readBuffer m l) := by
  induction l generalizing m with
  | nil => exact h
  | cons p l ih => exact ih (Memory.writeBytes_wf h _ _)

/-- Reads in a row, cut in two. -/
theorem readBuffer_append (m l1 l2) : readBuffer m (l1 ++ l2) = readBuffer (readBuffer m l1) l2 := by
  induction l1 generalizing m with
  | nil => rfl
  | cons p l ih => exact ih _

/-! ## INIT -/

/-- INIT's complete step does not depend on the point it is taken from. -/
theorem completeInit_ctl (ran a nf) (e : Sensor) (k : Ctl) : completeInit ran a nf { e with ctl := k } = completeInit ran a nf e := by
  cases ran <;> rfl

/-- INIT's writes from the first to its complete step, for any list of them (R185). -/
theorem initNextWrite_run (c : Config) (ran : Bool) (a : Addr) (nf : Bool) (writes : List (Byte × Byte)) :
   ∀ (ws : List BusDraw) (x d0 : BusDraw) (ds : List BusDraw) (e : Sensor), ws.length = writes.length →
       Memory.wf e.staging → ws ++ [x] = d0 :: ds →
   sensorRun c ds (initNextWrite ran a nf writes d0 e) = completeInit ran a nf
     { e with
       staging := initStaging e.staging writes
       busHistory := e.busHistory ++ initEvents a writes ws
       lastCount := lastSent e.lastCount ws
       shortLatch := (e.shortLatch || someShort ws) } := by
  induction writes with
  | nil =>
    intro ws x d0 ds e hl hw hd
    have : ws = [] := by simpa using hl
    subst this
    simp at hd; obtain ⟨rfl, rfl⟩ := hd
    simp [sensorRun, initNextWrite, initStaging, initEvents, lastSent, someShort]
  | cons p writes ih =>
    obtain ⟨r, v⟩ := p
    intro ws x d0 ds e hl hw hd
    cases ws with
    | nil => simp at hl
    | cons w ws =>
      simp at hd; obtain ⟨rfl, rfl⟩ := hd
      have hl' : ws.length = writes.length := by simpa using hl
      obtain ⟨d1, ds', hds⟩ : ∃ d1 ds', ws ++ [x] = d1 :: ds' := by cases ws <;> simp
      have hst : (Memory.writeBytes e.staging 0 [r, v]).readBytes 2 = [r, v] := Memory.readBytes_writeBytes hw [r, v]
      let e1 : Sensor := { e with staging := e.staging.writeBytes 0 [r, v], busHistory := e.busHistory ++ [.bw a [r, v] true (min w.sent 2)], ctl := .run (.init (.wrote ran a nf writes (min w.sent 2))) }
      have h1 : initNextWrite ran a nf ((r, v) :: writes) w e = e1 := by
        simp only [initNextWrite, stage, busWrite, beginRun, hst]; rfl
      have h2 : stepSensor c d1 e1 = initNextWrite ran a nf writes d1 (noteAccess (min w.sent 2) (writeOk 1 (min w.sent 2)) e1) := rfl
      rw [h1, hds, sensorRun, h2, ih ws x d1 ds' _ hl' (Memory.writeBytes_wf hw _ _) hds]
      have hk : (!writeOk 1 (min w.sent 2)) = decide (w.sent < 2) := by
        unfold writeOk
        by_cases h : w.sent < 2
        · simp [h]
        · simp [h]
          omega
      rw [← completeInit_ctl ran a nf _ e.ctl]
      congr 1
      simp [e1, noteAccess, hk, initStaging, initEvents, lastSent, someShort, Bool.or_assoc]

/-! ## await -/

/-- Answers of polls in a row. -/
theorem pollAnswers_append (l1 l2) : pollAnswers (l1 ++ l2) = pollAnswers l1 ++ pollAnswers l2 := by
  induction l1 with
  | nil => rfl
  | cons p l ih => obtain ⟨w, r⟩ := p; simp [pollAnswers, ih]

/-- Poll transactions, cut in two. -/
theorem pollEvents_append (c a l1 l2) : pollEvents c a (l1 ++ l2) = pollEvents c a l1 ++ pollEvents c a l2 := by
  induction l1 with
  | nil => rfl
  | cons p l ih => simp [pollEvents, ih]

/-- `poll_n` after `k` polls, saturating (R193). -/
def pollCount (k : Nat) : Word := BitVec.ofNat 32 (min k (2^32-1))

/-- One more poll. -/
theorem countPoll_pollCount (e : Sensor) (k) (h : e.pollN = pollCount k) : countPoll e = { e with pollN := pollCount (k+1) } := by
  unfold countPoll
  congr 1
  rw [h]; unfold pollCount
  apply BitVec.eq_of_toNat_eq
  simp only [BitVec.toNat_ofNat]
  omega

/-- A ready poll was answered. -/
theorem answered_of_ready {c : Config} {p : BusDraw × BusDraw} (h : sawReady c p = true) : ∃ b, answered p.1 p.2 = some b := by
  unfold sawReady at h
  cases ha : answered p.1 p.2 with
  | none => simp [ha] at h
  | some b => exact ⟨b, rfl⟩

/-- Any number of polls without data-ready and the transactions of one more (R193). -/
theorem runAwait_polls (c : Config) (at' : ReadPt → Running) (ready : BusDraw → Sensor →
    Sensor) (timeout : Sensor → Sensor)
   (hd : ∀ p d e, e.ctl = .run (at' p) → stepSensor c d e = runAwait c at' (ready d) timeout p d e)
   (last : BusDraw × BusDraw) (polls : List (BusDraw × BusDraw)) :
   ∀ (e : Sensor) (k : Nat), e.ctl = .run (at' .start) → Memory.wf e.rxbuf → e.pollN = pollCount k →
       (∀ p ∈ polls, sawReady c p = false) →
    (∀ l, c.pollLimit = some l → k + polls.length < l) →
    ∃ lc, sensorRun c (pollAnswers (polls ++ [last])) e = { e with
      ctl := .run (at' (.got (min last.1.sent 1) (last.2.data.take 1).length))
      rxbuf := readBuffer e.rxbuf (polls ++ [last])
      busHistory := e.busHistory ++ pollEvents c e.addr (polls ++ [last])
      pollN := pollCount (k + polls.length)
      lastCount := lc
      shortLatch := (e.shortLatch || polls.any pollShort) } := by
  induction polls with
  | nil =>
    intro e k hc hm hk _ _
    refine ⟨e.lastCount, ?_⟩
    obtain ⟨w, r⟩ := last
    simp only [List.nil_append, pollAnswers, sensorRun]
    rw [hd _ _ _ hc]
    simp only [runAwait]
    rw [hd (.held (min w.sent 1)) _ _ rfl]
    simp [runAwait, regReadHeld, regReadStart, busRead, busWrite, readBuffer, pollEvents, readEvents, hk]
  | cons p polls ih =>
    obtain ⟨w, r⟩ := p
    intro e k hc hm hk hn hl
    have hm1 : Memory.wf (Memory.writeBytes e.rxbuf 0 (r.data.take 1)) := Memory.writeBytes_wf hm _ _
    let e1 : Sensor := regReadHeld e.addr 1 (min w.sent 1) at' r (regReadStart e.addr c.regStatus at' w e)
    have h1 : stepSensor c r (stepSensor c w e) = e1 := by
      rw [hd _ _ _ hc]; simp only [runAwait]; rw [hd (.held (min w.sent 1)) _ _ rfl]; rfl
    let e2 : Sensor := { countPoll (noteAccess (r.data.take 1).length (answered w r).isSome e1) with ctl := .run (at' .start) }
    have h2 : e2 = { e1 with pollN := pollCount (k+1), lastCount := some (r.data.take 1).length, shortLatch := (e.shortLatch || (answered w r).isNone), ctl := .run (at' .start) } := by
      simp only [e2]; rw [countPoll_pollCount _ k (by exact hk)]
      simp [noteAccess, e1]
    have h3 : ∀ d, stepSensor c d e1 = stepSensor c d e2 := by
      intro d
      rw [hd (.got (min w.sent 1) (r.data.take 1).length) d e1 rfl, hd .start d e2 rfl]
      simp only [runAwait]
      rw [readOk_answered]
      rw [if_neg, if_neg]
      · rfl
      · unfold pollsExhausted
        rw [countPoll_pollCount _ k (by exact hk)]
        cases hp : c.pollLimit with
        | none => simp
        | some l =>
          have := hl l hp
          simp [pollCount]
          simp at this
          omega
      · rw [pollReady_answered hm c w r (by rfl), hn (w, r) (by simp)]; simp
    obtain ⟨d1, ds, hds⟩ : ∃ d1 ds, pollAnswers (polls ++ [last]) = d1 :: ds := by
      cases polls with
      | nil => exact ⟨_, _, rfl⟩
      | cons p _ => exact ⟨_, _, rfl⟩
    obtain ⟨lc, ih⟩ := ih e2 (k+1) rfl (by exact hm1) (by rw [h2]) (fun p hp => hn p (by simp [hp])) (fun l hp => by have := hl l hp; simp at this; omega)
    refine ⟨lc, ?_⟩
    have h4 : sensorRun c (pollAnswers (polls ++ [last])) e1 = sensorRun c (pollAnswers (polls ++ [last])) e2 := by
      rw [hds, sensorRun, sensorRun, h3]
    show sensorRun c (pollAnswers (polls ++ [last])) (stepSensor c r (stepSensor c w e)) = _
    rw [h1, h4, ih, h2]
    simp [e1, readBuffer, pollEvents, readEvents, List.any_cons, pollShort, Bool.or_assoc, Nat.add_comm,
        Nat.add_left_comm]

/-- Unbounded `await` never leaves (R194): polls that do not see data-ready, and the start of the next, leave it inside,
having made just their transactions. -/
theorem runAwait_hangs (c : Config) (at' : ReadPt → Running) (ready : BusDraw → Sensor → Sensor)
    (timeout : Sensor → Sensor)
    (hd : ∀ p d e, e.ctl = .run (at' p) → stepSensor c d e = runAwait c at' (ready d) timeout p d e)
    (hp : c.pollLimit = none) (next : Option BusDraw) (polls : List (BusDraw × BusDraw)) :
    ∀ (e : Sensor) (p : ReadPt), e.ctl = .run (at' p) → (∀ s, p ≠ .held s) →
      (∀ s r, p = .got s r → pollReady c s r e = false) → Memory.wf e.rxbuf →
      (∀ q ∈ polls, sawReady c q = false) →
      ∃ p', (sensorRun c (pollAnswers polls ++ next.toList) e).ctl = .run (at' p') ∧
        (sensorRun c (pollAnswers polls ++ next.toList) e).busHistory =
          e.busHistory ++ pollEvents c e.addr polls ++
            (next.map (fun w => .bw e.addr [c.regStatus] false (min w.sent 1))).toList := by
  have first : ∀ (d : BusDraw) (e : Sensor) (p : ReadPt), e.ctl = .run (at' p) → (∀ s, p ≠ .held s) →
      (∀ s r, p = .got s r → pollReady c s r e = false) →
      ∃ e' : Sensor, stepSensor c d e = regReadStart e.addr c.regStatus at' d e' ∧
        e'.addr = e.addr ∧ e'.rxbuf = e.rxbuf ∧ e'.busHistory = e.busHistory := by
    intro d e p hc hh hg
    rw [hd p d e hc]
    cases p with
    | start => exact ⟨e, rfl, rfl, rfl, rfl⟩
    | held s => exact absurd rfl (hh s)
    | got s r =>
      refine ⟨countPoll (noteAccess r (readOk 1 s r) e), ?_, rfl, rfl, rfl⟩
      have hr : pollReady c s r (countPoll (noteAccess r (readOk 1 s r) e)) = false := hg s r rfl
      simp only [runAwait, hr, pollsExhausted, hp]
      rfl
  induction polls with
  | nil =>
    intro e p hc hh hg hm _
    cases next with
    | none => exact ⟨p, hc, by simp [pollAnswers, pollEvents, sensorRun]⟩
    | some w =>
      obtain ⟨e', he, _, _, hb⟩ := first w e p hc hh hg
      refine ⟨.held (min w.sent 1), ?_⟩
      simp [pollAnswers, pollEvents, sensorRun, he, regReadStart, busWrite, hb]
  | cons q polls ih =>
    obtain ⟨w, r⟩ := q
    intro e p hc hh hg hm hn
    obtain ⟨e', he, ha, hx, hb⟩ := first w e p hc hh hg
    have h2 : sensorRun c (pollAnswers ((w, r) :: polls) ++ next.toList) e =
        sensorRun c (pollAnswers polls ++ next.toList)
          (regReadHeld e.addr 1 (min w.sent 1) at' r (regReadStart e.addr c.regStatus at' w e')) := by
      simp only [pollAnswers, List.cons_append, sensorRun, he]
      rw [hd (.held (min w.sent 1)) r _ rfl]
      simp only [runAwait]
      rw [show (regReadStart e.addr c.regStatus at' w e').addr = e.addr from ha]
    rw [h2]
    obtain ⟨p', h3, h4⟩ := ih
      (regReadHeld e.addr 1 (min w.sent 1) at' r (regReadStart e.addr c.regStatus at' w e'))
      (.got (min w.sent 1) (r.data.take 1).length) rfl (fun _ h => by cases h)
      (fun s r' h => by
        cases h
        rw [pollReady_answered (m := e.rxbuf) hm c w r (by rw [← hx]; rfl)]
        exact hn (w, r) (by simp))
      (by
        show Memory.wf (Memory.writeBytes e'.rxbuf 0 _)
        rw [hx]; exact Memory.writeBytes_wf hm _ _)
      (fun q hq => hn q (by simp [hq]))
    refine ⟨p', h3, h4.trans ?_⟩
    simp [regReadHeld, regReadStart, busRead, busWrite, pollEvents, readEvents, ha, hb]

/-- `await` from its start to both its ways out (R193). -/
theorem runAwait_ends (c : Config) (at' : ReadPt → Running) (ready : BusDraw → Sensor →
    Sensor) (timeout : Sensor → Sensor)
   (hd : ∀ p d e, e.ctl = .run (at' p) → stepSensor c d e = runAwait c at' (ready d) timeout p d e)
   (last : BusDraw × BusDraw) (polls : List (BusDraw × BusDraw)) (e : Sensor) (x : BusDraw) 
   (hc : e.ctl = .run (at' .start)) (hm : Memory.wf e.rxbuf) (hk : e.pollN = pollCount 0) (hn : ∀ p ∈ polls,
       sawReady c p = false)
   (hl : ∀ l, c.pollLimit = some l → polls.length < l) :
    ∃ k, 
    let e' : Sensor := { e with
      ctl := k
      rxbuf := readBuffer e.rxbuf (polls ++ [last])
      busHistory := e.busHistory ++ pollEvents c e.addr (polls ++ [last])
      pollN := pollCount (polls.length + 1)
      lastCount := some (last.2.data.take 1).length
      shortLatch := (e.shortLatch || (polls ++ [last]).any pollShort) }
    (sawReady c last = true → sensorRun c (pollAnswers (polls ++ [last]) ++ [x]) e = ready x e') ∧
    (sawReady c last = false → c.pollLimit = some (polls.length + 1) → polls.length + 1 ≤ 2^32-1 →
        sensorRun c (pollAnswers (polls ++ [last]) ++ [x]) e = timeout e') := by
  obtain ⟨lc, h⟩ := runAwait_polls c at' ready timeout hd last polls e 0 hc hm hk hn (by simpa using hl)
  refine ⟨.run (at' (.got (min last.1.sent 1) (last.2.data.take 1).length)), ?_⟩
  intro e'
  have hm' : Memory.wf (readBuffer e.rxbuf polls) := readBuffer_wf hm _
  rw [sensorRun_append, h]
  simp only [sensorRun]
  rw [hd _ _ _ rfl]
  simp only [runAwait]
  rw [readOk_answered, countPoll_pollCount _ (polls.length) (by simp [noteAccess])]
  rw [pollReady_answered hm' c last.1 last.2 (by simp [noteAccess, readBuffer_append, readBuffer])]
  have he : ({ noteAccess (last.2.data.take 1).length (answered last.1 last.2).isSome
      { e with
      ctl := .run (at' (.got (min last.1.sent 1) (last.2.data.take 1).length))
      rxbuf := readBuffer e.rxbuf (polls ++ [last])
      busHistory := e.busHistory ++ pollEvents c e.addr (polls ++ [last])
      pollN := pollCount (0 + polls.length)
      lastCount := lc
      shortLatch := (e.shortLatch || polls.any pollShort) } with pollN := pollCount (polls.length + 1) } : Sensor) = e' := by
    simp [noteAccess, e', pollShort, Bool.or_assoc]
  rw [he]
  refine ⟨fun hr => by rw [if_pos hr], fun hr hp hx => ?_⟩
  rw [if_neg (by simp [hr]), if_pos]
  unfold pollsExhausted
  rw [hp]
  simp [e', pollCount]
  omega

/-! ## One axis -/

/-- One axis of READ_MOTION: its four transactions and the step after them (R197, R198). -/
theorem motionAxis_run (c : Config) (axis : Axis) (new : Axes
    (Option Half)) (l h : BusDraw × BusDraw) (e : Sensor) (x : BusDraw) (hm : Memory.wf e.rxbuf) :
   ∃ k, sensorRun c [l.2, h.1, h.2, x] (motionAxis c axis new l.1 e) = 
    let e' : Sensor := { e with 
      ctl := k
      shortLatch := (e.shortLatch || pollShort l || pollShort h)
      lastCount := some (h.2.data.take 1).length
      rxbuf := readBuffer e.rxbuf [l, h]
      busHistory := e.busHistory ++ readEvents e.addr (lowRegister c axis) l.1 l.2 ++ readEvents e.addr (highRegister c axis) h.1 h.2 }
    let new' := match answered l.1 l.2, answered h.1 h.2 with
      | some lo, some hi => new.set (some (signed16 (decode14 (sampleWord hi lo)))) axis
      | _, _ => new
    match axis.next with
    | some axis => motionAxis c axis new' x e'
    | none => completeMotion new' e' := by
  obtain ⟨lw, lr⟩ := l
  obtain ⟨hw, hr⟩ := h
  let e1 : Sensor := regReadHeld e.addr 1 (min lw.sent 1) (fun p => .readMotion (.low axis new p)) lr (motionAxis c axis new lw e)
  let e2 : Sensor := noteAccess (lr.data.take 1).length (readOk 1 (min lw.sent 1) (lr.data.take 1).length) e1
  let e3 : Sensor := regReadStart e.addr (highRegister c axis) (fun p => .readMotion (.high axis (readOk 1 (min lw.sent 1) (lr.data.take 1).length) (rx0 e2) new p)) hw e2
  let e4 : Sensor := regReadHeld e.addr 1 (min hw.sent 1) (fun p => .readMotion (.high axis (readOk 1 (min lw.sent 1) (lr.data.take 1).length) (rx0 e2) new p)) hr e3
  let e5 := noteAccess (hr.data.take 1).length (readOk 1 (min hw.sent 1) (hr.data.take 1).length) e4
  have hm1 : Memory.wf e1.rxbuf := Memory.writeBytes_wf hm _ _
  refine ⟨e4.ctl, ?_⟩
  have h1 : sensorRun c [lr, hw, hr, x] (motionAxis c axis new lw e) = stepSensor c x e4 := rfl
  have h2 : stepSensor c x e4 = (
    match axis.next with
    | some axis' => motionAxis c axis' (if readOk 1 (min lw.sent 1)
        (lr.data.take 1).length && readOk 1 (min hw.sent 1) (hr.data.take 1).length then new.set
        (some (signed16 (decode14 (sampleWord (rx0 e5) (rx0 e2))))) axis else new) x e5
    | none => completeMotion (if readOk 1 (min lw.sent 1) (lr.data.take 1).length && readOk 1
        (min hw.sent 1) (hr.data.take 1).length then new.set (some
        (signed16 (decode14 (sampleWord (rx0 e5) (rx0 e2))))) axis else new) e5) := rfl
  rw [h1, h2]
  let e' : Sensor := { e with
      ctl := e4.ctl
      shortLatch := (e.shortLatch || pollShort (lw, lr) || pollShort (hw, hr))
      lastCount := some (hr.data.take 1).length
      rxbuf := readBuffer e.rxbuf [(lw, lr), (hw, hr)]
      busHistory := e.busHistory ++ readEvents e.addr (lowRegister c axis) lw lr ++ readEvents e.addr (highRegister c axis) hw hr }
  have he' : e5 = e' := by
    have hs : e5.shortLatch = e'.shortLatch := by
      show (e.shortLatch || !readOk 1 (min lw.sent 1) (lr.data.take 1).length || !readOk 1
          (min hw.sent 1) (hr.data.take 1).length) = _
      rw [readOk_answered, readOk_answered, not_isSome, not_isSome]
      rfl
    have hh : e5.busHistory = e'.busHistory := by
      show e.busHistory ++ _ ++ _ ++ _ ++ _ = e.busHistory ++ _ ++ _
      simp [readEvents]
    have : e5 = { e' with shortLatch := e5.shortLatch, busHistory := e5.busHistory } := rfl
    rw [this, hs, hh]
  have hnew : (if readOk 1 (min lw.sent 1) (lr.data.take 1).length && readOk 1
      (min hw.sent 1) (hr.data.take 1).length then new.set (some
      (signed16 (decode14 (sampleWord (rx0 e5) (rx0 e2))))) axis else new) = 
     (match answered lw lr, answered hw hr with
      | some lo, some hi => new.set (some (signed16 (decode14 (sampleWord hi lo)))) axis
      | _, _ => new) := by
    rw [readOk_answered, readOk_answered]
    cases hl : answered lw lr with
    | none => simp
    | some lo =>
      cases hh : answered hw hr with
      | none => simp
      | some hi =>
        have a1 : rx0 e2 = lo := read_zero_answered hm hl
        have a2 : rx0 e5 = hi := read_zero_answered hm1 hh
        simp [a1, a2]
  rw [hnew, he']

/-- The sample word as a number (R79). -/
theorem sampleWord_eq (h l : Byte) : sampleWord h l = BitVec.ofNat 16 (h.toNat * 256 + l.toNat) := by
  unfold sampleWord
  apply BitVec.eq_of_toNat_eq
  have := h.isLt; have := l.isLt
  rw [BitVec.toNat_append, Nat.shiftLeft_eq, Nat.mul_comm, ← Nat.two_pow_add_eq_or_of_lt (by omega)]
  simp
  omega

/-! ## Every SENSOR step -/

/-- The runs that can commit an address. -/
def mayResolve : Running → Prop
  | .resolveAddr _ => True
  | .init (.resolving _) => True
  | .init (.wrote true _ _ _ _) => True
  | _ => False

/-- A SENSOR step after which the command still runs: one bus event, nothing host-visible but S_RXBUF (R156, R157). -/
structure StepsOn (c : Config) (e e' : Sensor) : Prop where
  ovr : e'.ovr = e.ovr
  resolved : e'.resolved = e.resolved
  initialized : e'.initialized = e.initialized
  devNotFound : e'.devNotFound = e.devNotFound
  result : e'.result = e.result
  count : e'.count = e.count
  addr : e'.addr = e.addr
  temp16 : e'.temp16 = e.temp16
  acc16 : e'.acc16 = e.acc16
  fatalReported : e'.fatalReported = e.fatalReported
  txbuf : e'.txbuf = e.txbuf
  ctl : ∃ r, e'.ctl = .run r
  hist : ∃ v, e'.busHistory = e.busHistory ++ [v] ∧ ∀ p, pendingRead c e' = some p → v = .bw p.a7 [p.reg] false p.sent

/-- A SENSOR step that completes the command: no bus event, a completion code (R157, R221). -/
structure Completes (e e' : Sensor) : Prop where
  ovr : e'.ovr = e.ovr
  initialized : e.initialized = true → e'.initialized = true
  result : e'.result = .ok ∨ e'.result = .short ∨ e'.result = .timeout ∨ e'.result = .nodev
  fatalReported : e'.fatalReported = e.fatalReported
  txbuf : e'.txbuf = e.txbuf
  rxbuf : e'.rxbuf = e.rxbuf
  staging : e'.staging = e.staging
  ctl : e'.ctl = .idle
  hist : e'.busHistory = e.busHistory
  addr : (e'.resolved = e.resolved ∧ e'.addr = e.addr ∧ e'.devNotFound = e.devNotFound) ∨ (e'.resolved = true ∧
      ∃ r, e.ctl = .run r ∧ mayResolve r)

/-- The held write of a register read (R158). -/
theorem regReadStart_stepsOn {c : Config} {e : Sensor} (a r) (at' : ReadPt → Running) (d) 
   (h : ∀ s (e' : Sensor), e'.ctl = .run (at' (.held s)) → e'.addr = e.addr → ∀ p, pendingRead c e' = some p →
       p = ⟨a, r, p.n, s⟩) : StepsOn c e (regReadStart a r at' d e) := by
  refine ⟨rfl,rfl,rfl,rfl,rfl,rfl,rfl,rfl,rfl,rfl,rfl,⟨_,rfl⟩,⟨_,rfl,?_⟩⟩
  intro p hp
  have := h (min d.sent 1) (regReadStart a r at' d e) rfl rfl p hp
  rw [this]; rfl

/-- The read of a register read (R158). -/
theorem regReadHeld_stepsOn {c : Config} {e : Sensor} (a n s) (at' : ReadPt → Running) (d) 
   (h : ∀ s r (e' : Sensor), e'.ctl = .run (at' (.got s r)) →
       pendingRead c e' = none) : StepsOn c e (regReadHeld a n s at' d e) := by
  refine ⟨rfl,rfl,rfl,rfl,rfl,rfl,rfl,rfl,rfl,rfl,rfl,⟨_,rfl⟩,⟨_,rfl,?_⟩⟩
  intro p hp
  rw [h _ _ _ rfl] at hp; cases hp

/-- A step from a state that differs only inside the engine. -/
theorem StepsOn.of_same {c : Config} {e0 e e' : Sensor} (h : StepsOn c e e')
    (h1 : e.ovr = e0.ovr) (h2 : e.resolved = e0.resolved) (h3 : e.initialized = e0.initialized)
    (h4 : e.devNotFound = e0.devNotFound)
  (h5 : e.result = e0.result) (h6 : e.count = e0.count) (h7 : e.addr = e0.addr)
      (h8 : e.temp16 = e0.temp16) (h9 : e.acc16 = e0.acc16) (h10 : e.fatalReported = e0.fatalReported)
      (h11 : e.txbuf = e0.txbuf) (h12 : e.busHistory = e0.busHistory) : StepsOn c e0 e' := by
  obtain ⟨a1,a2,a3,a4,a5,a6,a7,a8,a9,a10,a11,a12,a13⟩ := h
  exact ⟨a1.trans h1,a2.trans h2,a3.trans h3,a4.trans h4,a5.trans h5,a6.trans h6,a7.trans h7,a8.trans h8,a9.trans h9,a10.trans h10,a11.trans h11,a12,by rw [← h12]; exact a13⟩

/-- A complete step (R157). -/
theorem complete_completes {e e0 : Sensor} {code} (hr : code = .ok ∨ code = .short ∨ code = .timeout ∨ code = .nodev) 
  (h1 : e.ovr = e0.ovr) (h3 : e0.initialized = true →
      e.initialized = true) (h10 : e.fatalReported = e0.fatalReported)
      (h11 : e.txbuf = e0.txbuf) (h12 : e.busHistory = e0.busHistory)
      (h13 : e.rxbuf = e0.rxbuf) (h14 : e.staging = e0.staging)
  (h : (e.resolved = e0.resolved ∧ e.addr = e0.addr ∧ e.devNotFound = e0.devNotFound) ∨ (e.resolved = true ∧
      ∃ r, e0.ctl = .run r ∧ mayResolve r)) : Completes e0 (complete code e) :=
  ⟨h1, h3, hr, h10, h11, h13, h14, rfl, h12, h⟩

/-- OK or SHORT is a completion code. -/
theorem shortOrOk_code (b) : shortOrOk b = .ok ∨ shortOrOk b = .short ∨ shortOrOk b = .timeout ∨ shortOrOk b = .nodev := by cases b <;> simp [shortOrOk]

/-- NODEV, OK or SHORT is a completion code. -/
theorem completionCode_code (a b) : completionCode .nodev a b = .ok ∨ completionCode .nodev a b = .short ∨ completionCode .nodev a b = .timeout ∨ completionCode .nodev a b = .nodev := by cases a <;> cases b <;> simp [shortOrOk, completionCode]

/-- The read pending after a held write. -/
theorem pendingAt_held {a r n s p} (h : pendingAt a r n (.held s) = some p) : p = ⟨a, r, p.n, s⟩ := by
  cases h; rfl

/-- Every step of `resolve` (R180). -/
theorem runResolve_cases (c : Config) (at' ret p d) (e : Sensor) 
   (hh : ∀ s (e' : Sensor), e'.ctl = .run (at' (.high (.held s))) → e'.addr = e.addr → ∀ p,
       pendingRead c e' = some p → p = ⟨c.addrHigh, c.regWhoAmI, p.n, s⟩)
   (hl : ∀ s (e' : Sensor), e'.ctl = .run (at' (.low (.held s))) → e'.addr = e.addr → ∀ p,
       pendingRead c e' = some p → p = ⟨c.addrLow, c.regWhoAmI, p.n, s⟩)
   (hh' : ∀ s r (e' : Sensor), e'.ctl = .run (at' (.high (.got s r))) → pendingRead c e' = none)
   (hl' : ∀ s r (e' : Sensor), e'.ctl = .run (at' (.low (.got s r))) → pendingRead c e' = none)
   (hret : ∀ a nf k ok, StepsOn c e (ret a nf (noteAccess k ok e)) ∨ Completes e (ret a nf (noteAccess k ok e))) :
   StepsOn c e (runResolve c at' ret p d e) ∨ Completes e (runResolve c at' ret p d e) := by
  rcases p with p | p <;> cases p
  · left; exact regReadStart_stepsOn _ _ (fun p => at' (.high p)) _ hh
  · left; exact regReadHeld_stepsOn _ _ _ (fun p => at' (.high p)) _ hh'
  · simp only [runResolve]
    split
    · exact hret _ _ _ _
    · left; exact StepsOn.of_same (regReadStart_stepsOn (e := noteAccess _ _ e) _ _ (fun p => at' (.low p)) _ hl) rfl rfl rfl rfl rfl rfl rfl rfl rfl rfl rfl rfl
  · left; exact regReadStart_stepsOn _ _ (fun p => at' (.low p)) _ hl
  · left; exact regReadHeld_stepsOn _ _ _ (fun p => at' (.low p)) _ hl'
  · exact hret _ _ _ _

/-- Every step of `await` (R193). -/
theorem runAwait_cases (c : Config) (at' ready timeout p d) (e : Sensor) 
   (hh : ∀ s (e' : Sensor), e'.ctl = .run (at' (.held s)) → e'.addr = e.addr → ∀ p, pendingRead c e' = some p →
       p = ⟨e.addr, c.regStatus, p.n, s⟩)
   (hh' : ∀ s r (e' : Sensor), e'.ctl = .run (at' (.got s r)) → pendingRead c e' = none)
   (h1 : ∀ k ok, StepsOn c e (ready (countPoll (noteAccess k ok e))) ∨
       Completes e (ready (countPoll (noteAccess k ok e))))
   (h2 : ∀ k ok, StepsOn c e (timeout (countPoll (noteAccess k ok e))) ∨
       Completes e (timeout (countPoll (noteAccess k ok e)))) :
   StepsOn c e (runAwait c at' ready timeout p d e) ∨ Completes e (runAwait c at' ready timeout p d e) := by
  cases p
  · left; exact regReadStart_stepsOn _ _ at' _ hh
  · left; exact regReadHeld_stepsOn _ _ _ at' _ hh'
  · simp only [runAwait]
    split
    · exact h1 _ _
    · split
      · exact h2 _ _
      · left; exact StepsOn.of_same (regReadStart_stepsOn (e := countPoll (noteAccess _ _ e)) _ _ at' _ hh) rfl rfl rfl rfl rfl rfl rfl rfl rfl rfl rfl rfl

/-- Every step of INIT's loop (R185). -/
theorem initNextWrite_cases (c : Config) (ran a nf l d k ok) (e : Sensor) (h : ran = true → ∃ r,
    e.ctl = .run r ∧ mayResolve r) :
   StepsOn c e (initNextWrite ran a nf l d (noteAccess k ok e)) ∨
       Completes e (initNextWrite ran a nf l d (noteAccess k ok e)) := by
  cases l with
  | nil =>
    right
    simp only [initNextWrite, completeInit]
    cases ran
    · exact complete_completes (completionCode_code _ _) rfl (fun _ => rfl) rfl rfl rfl rfl rfl (Or.inl ⟨rfl,
          rfl, rfl⟩)
    · exact complete_completes (completionCode_code _ _) rfl (fun _ => rfl) rfl rfl rfl rfl rfl (Or.inr ⟨rfl, h rfl⟩)
  | cons rv l =>
    left
    refine ⟨rfl,rfl,rfl,rfl,rfl,rfl,rfl,rfl,rfl,rfl,rfl,⟨_,rfl⟩,⟨_,rfl,?_⟩⟩
    intro p hp; cases hp

/-- INIT's first step with an active address (R185). -/
theorem initNextWrite_cases_kept (c : Config) (a nf l d) (e : Sensor) :
   StepsOn c e (initNextWrite false a nf l d e) ∨ Completes e (initNextWrite false a nf l d e) := by
  cases l with
  | nil =>
    right
    exact complete_completes (completionCode_code _ _) rfl (fun _ => rfl) rfl rfl rfl rfl rfl (Or.inl ⟨rfl, rfl, rfl⟩)
  | cons rv l =>
    left
    refine ⟨rfl,rfl,rfl,rfl,rfl,rfl,rfl,rfl,rfl,rfl,rfl,⟨_,rfl⟩,⟨_,rfl,?_⟩⟩
    intro p hp; cases hp

/-- An idle engine takes no step. -/
theorem stepSensor_idle {c d} {e : Sensor} (h : e.busy = false) : stepSensor c d e = e := by
  unfold stepSensor; rw [not_busy_iff.1 h]

/-- Everything a SENSOR step of a running command can do (R156, R157). -/
theorem stepSensor_cases (c : Config) (d : BusDraw) (e : Sensor)
    (h : e.busy = true) : StepsOn c e (stepSensor c d e) ∨ Completes e (stepSensor c d e) := by
  obtain ⟨r, hr⟩ := busy_iff.1 h
  unfold stepSensor
  rw [hr]
  cases r with
  | readReg reg len p =>
    cases p with
    | start => left; exact regReadStart_stepsOn _ _ (.readReg reg len) _ (fun s e' h ha p hp => by unfold pendingRead at hp; rw [h] at hp; rw [← ha]; exact pendingAt_held hp)
    | held s => left; exact regReadHeld_stepsOn _ _ _ (.readReg reg len) _ (fun s r e' h => by unfold pendingRead; rw [h]; rfl)
    | got s r => right; exact complete_completes (shortOrOk_code _) rfl id rfl rfl rfl rfl rfl (Or.inl ⟨rfl,rfl,rfl⟩)
  | writeReg reg len p =>
    cases p with
    | start =>
      left
      refine ⟨rfl,rfl,rfl,rfl,rfl,rfl,rfl,rfl,rfl,rfl,rfl,⟨_,rfl⟩,⟨_,rfl,?_⟩⟩
      intro p hp; cases hp
    | done s => right; exact complete_completes (shortOrOk_code _) rfl id rfl rfl rfl rfl rfl (Or.inl ⟨rfl,rfl,rfl⟩)
  | resolveAddr p =>
    apply runResolve_cases
    · intro s e' h ha p hp; unfold pendingRead at hp; rw [h] at hp; exact pendingAt_held hp
    · intro s e' h ha p hp; unfold pendingRead at hp; rw [h] at hp; exact pendingAt_held hp
    · intro s r e' h; unfold pendingRead; rw [h]; rfl
    · intro s r e' h; unfold pendingRead; rw [h]; rfl
    · intro a nf k ok; right
      exact complete_completes (completionCode_code _ _) rfl id rfl rfl rfl rfl rfl (Or.inr ⟨rfl, _, hr, trivial⟩)
  | init p =>
    cases p with
    | start =>
      simp only [runInit]
      split
      · exact initNextWrite_cases_kept ..
      · left
        exact regReadStart_stepsOn _ _ (fun p => .init (.resolving (.high p))) _ (fun s e' h ha p hp => by unfold pendingRead at hp; rw [h] at hp; exact pendingAt_held hp)
    | resolving p =>
      simp only [runInit]
      apply runResolve_cases
      · intro s e' h ha p hp; unfold pendingRead at hp; rw [h] at hp; exact pendingAt_held hp
      · intro s e' h ha p hp; unfold pendingRead at hp; rw [h] at hp; exact pendingAt_held hp
      · intro s r e' h; unfold pendingRead; rw [h]; rfl
      · intro s r e' h; unfold pendingRead; rw [h]; rfl
      · intro a nf k ok
        exact initNextWrite_cases _ _ _ _ _ _ _ _ _ (fun _ => ⟨_, hr, trivial⟩)
    | wrote ran a nf rest s =>
      simp only [runInit]
      apply initNextWrite_cases
      rintro rfl; exact ⟨_, hr, trivial⟩
  | readTemp p =>
    cases p with
    | start => left; exact regReadStart_stepsOn _ _ .readTemp _ (fun s e' h ha p hp => by unfold pendingRead at hp; rw [h] at hp; rw [← ha]; exact pendingAt_held hp)
    | held s => left; exact regReadHeld_stepsOn _ _ _ .readTemp _ (fun s r e' h => by unfold pendingRead; rw [h]; rfl)
    | got s r => 
      right; simp only [runReadTemp]
      cases readOk 1 s r
      · exact complete_completes (shortOrOk_code _) rfl id rfl rfl rfl rfl rfl (Or.inl ⟨rfl,rfl,rfl⟩)
      · exact complete_completes (shortOrOk_code _) rfl id rfl rfl rfl rfl rfl (Or.inl ⟨rfl,rfl,rfl⟩)
  | awaitDrdy p =>
    apply runAwait_cases
    · intro s e' h ha p hp; unfold pendingRead at hp; rw [h] at hp; rw [← ha]; exact pendingAt_held hp
    · intro s r e' h; unfold pendingRead; rw [h]; rfl
    · intro k ok; right; exact complete_completes (shortOrOk_code _) rfl id rfl rfl rfl rfl rfl (Or.inl ⟨rfl,rfl,rfl⟩)
    · intro k ok; right; exact complete_completes (by simp) rfl id rfl rfl rfl rfl rfl (Or.inl ⟨rfl,rfl,rfl⟩)
  | readMotion p =>
    have low : ∀ axis new (e' : Sensor), e'.addr = e.addr → StepsOn c e' (motionAxis c axis new d e') := by
      intro axis new e0 he
      exact regReadStart_stepsOn _ _ (fun p => .readMotion (.low axis new p)) _ (fun s e' h ha p hp => by unfold pendingRead at hp; rw [h] at hp; rw [← ha]; exact pendingAt_held hp)
    rcases p with p | ⟨axis, new, p⟩ | ⟨axis, okL, lo, new, p⟩
    · simp only [runReadMotion]
      apply runAwait_cases
      · intro s e' h ha p hp; unfold pendingRead at hp; rw [h] at hp; rw [← ha]; exact pendingAt_held hp
      · intro s r e' h; unfold pendingRead; rw [h]; rfl
      · intro k ok; left; exact StepsOn.of_same (low _ _ _ rfl) rfl rfl rfl rfl rfl rfl rfl rfl rfl rfl rfl rfl
      · intro k ok; right; exact complete_completes (by simp) rfl id rfl rfl rfl rfl rfl (Or.inl ⟨rfl,rfl,rfl⟩)
    · left
      have high : ∀ okL lo (e0 : Sensor),
          StepsOn c e0 (regReadStart e0.addr (highRegister c axis)
          (fun p => .readMotion (.high axis okL lo new p)) d e0) := by
        intro okL lo e0
        exact regReadStart_stepsOn _ _ (fun p => .readMotion (.high axis okL lo new p)) _ (fun s e' h ha p hp => by unfold pendingRead at hp; rw [h] at hp; rw [← ha]; exact pendingAt_held hp)
      cases p with
      | start => exact low _ _ _ rfl
      | held s => exact regReadHeld_stepsOn _ _ _ (fun p => .readMotion (.low axis new p)) _ (fun s r e' h => by unfold pendingRead; rw [h]; rfl)
      | got s r => exact StepsOn.of_same (high _ _ (noteAccess r
          (readOk 1 s r) e)) rfl rfl rfl rfl rfl rfl rfl rfl rfl rfl rfl rfl
    · cases p with
      | start => left; exact regReadStart_stepsOn _ _ (fun p => .readMotion (.high axis okL lo new p)) _ (fun s e' h ha p hp => by unfold pendingRead at hp; rw [h] at hp; rw [← ha]; exact pendingAt_held hp)
      | held s => left; exact regReadHeld_stepsOn _ _ _ (fun p => .readMotion (.high axis okL lo new p)) _ (fun s r e' h => by unfold pendingRead; rw [h]; rfl)
      | got s r =>
        simp only [runReadMotion]
        cases axis
        · left; exact StepsOn.of_same (low _ _ (noteAccess r (readOk 1 s r) e) rfl) rfl rfl rfl rfl rfl rfl rfl rfl rfl rfl rfl rfl
        · left; exact StepsOn.of_same (low _ _ (noteAccess r (readOk 1 s r) e) rfl) rfl rfl rfl rfl rfl rfl rfl rfl rfl rfl rfl rfl
        · right; exact complete_completes (shortOrOk_code _) rfl id rfl rfl rfl rfl rfl (Or.inl ⟨rfl,rfl,rfl⟩)

end Sys2Proof.Machine
end

