-- ==== Sys2Proof/Tests/Slice0.lean ====
section
/-! SUPPORT. Tests: expected values from the words of R111 and the vectors of spec/95_test_vectors.md, each named; and a
witness for the hypotheses of every statement. -/

namespace Sys2Proof.Tests

open Sys2Proof.Machine

/-! ## Helpers: small states and what a host would see of the next one -/

/-- Reset in the vectors' configuration, with an active address and INIT done (the start of V17, V20 to V22). -/
def ready : State :=
  { State.reset with
    sensor := { State.reset.sensor with resolved := true, initialized := true, addr := 0x1E, result := .ok } }

/-- `ready` with the sensor engine at a point of a command, `b` in S_RXBUF[0]. -/
def running (r : Running) (b : Byte) : State :=
  { ready with sensor := { ready.sensor with ctl := .run r, rxbuf := Memory.write [] 0 b } }

/-- Reset with the engine at a point of RESOLVE_ADDR or INIT before anything is resolved. -/
def resolving (r : Running) (b : Byte) : State :=
  { State.reset with sensor := { State.reset.sensor with ctl := .run r, rxbuf := Memory.write [] 0 b } }

/-- A running LED engine with `btn_q`, `debounce` and `pattern` as given. -/
def lit (btnQ : Bool) (debounce pattern : Word) : State :=
  { State.reset with
    led :=
      { State.reset.led with
        state := .running, btnQ := btnQ, debounce := debounce, pattern := pattern, period := 3, ticks := 3 } }

/-- What the host reads at an offset of the next state, if there is one. -/
def reads (o : Host.Outcome State Fault Refusal) (offset : Nat) : Option Word :=
  match o with
  | .next t => some (readRegister t offset 0)
  | .fault _ => none
  | .refused _ => none

/-- What the host reads at an offset after one SENSOR step. -/
def after (d : BusDraw) (s : State) (offset : Nat) : Word := readRegister (sensorStep d s) offset 0

/-! ## Well-formed commands (R103) -/

theorem test_wellFormed_refuses_read_of_nothing : WellFormed Config.suggested (.readReg 0x0F 0) = false := by decide
theorem test_wellFormed_refuses_read_of_257 : WellFormed Config.suggested (.readReg 0x0F 257) = false := by decide
theorem test_wellFormed_takes_read_of_1_and_256 :
    WellFormed Config.suggested (.readReg 0x27 1) = true ∧ WellFormed Config.suggested (.readReg 0x0F 256) = true := by decide
theorem test_wellFormed_refuses_write_of_256 : WellFormed Config.suggested (.writeReg 0x20 256) = false := by decide
theorem test_wellFormed_takes_write_of_0_and_255 :
    WellFormed Config.suggested (.writeReg 0x30 0) = true ∧ WellFormed Config.suggested (.writeReg 0x20 255) = true := by decide

/-! ## Decoding: words written out from R100 to R111, V9 and V10 -/

theorem test_decode_readReg : decode .sCmd 0b00000000000000010010011100000001 = .ok (.readReg 0x27 1) := by rfl
theorem test_decode_writeReg : decode .sCmd 0b00000000000000010010000000000010 = .ok (.writeReg 0x20 1) := by rfl
theorem test_decode_resolveAddr : decode .sCmd 0b11111111111111110000000000000011 = .ok .resolveAddr := by rfl
theorem test_decode_init : decode .sCmd 0b00010010001101000101011000000100 = .ok .init := by rfl
theorem test_decode_readTemp : decode .sCmd 0b00000000000000000000000000000101 = .ok .readTemp := by rfl
theorem test_decode_awaitDrdy : decode .sCmd 0b00000000000000000000000000000110 = .ok .awaitDrdy := by rfl
theorem test_decode_readMotion : decode .sCmd 0b00000000000000000000000000000111 = .ok .readMotion := by rfl
theorem test_decode_startLed : decode .lCmd 0b10101011110011011110111100000001 = .ok .startLed := by rfl
theorem test_decode_read_256 : decodeBytes .sCmd [0x01, 0x0F, 0x00, 0x01] = .ok (.readReg 0x0F 256) := by rfl
theorem test_decode_illegal_sensor :
    decode .sCmd 0x00000000 = .error (.illegalSensorOpcode 0x00) ∧
      decode .sCmd 0x00000008 = .error (.illegalSensorOpcode 0x08) ∧
      decode .sCmd 0x000000FF = .error (.illegalSensorOpcode 0xFF) := ⟨rfl, rfl, rfl⟩
theorem test_decode_illegal_led :
    decode .lCmd 0x00000000 = .error (.illegalLedOpcode 0x00) ∧
      decode .lCmd 0x00000002 = .error (.illegalLedOpcode 0x02) ∧
      decode .lCmd 0x00000100 = .error (.illegalLedOpcode 0x00) := ⟨rfl, rfl, rfl⟩
/-- The table numbering of log entry 1: a register's offset stands above the word's 32 bits. -/
theorem test_decodeTableWord_tells_registers_apart :
    decodeTableWord 48 0x002000000001 = some .startLed ∧ decodeTableWord 32 0x00000001 = some (.readReg 0 0) := by decide
theorem test_decode_short_of_a_word : decodeBytes .sCmd [0x04] = .error (.notOneWord 1) := by rfl
theorem test_encode_r111 :
    encode (.writeReg 0x20 1) = (.sCmd, 0x00012002) ∧ encode (.readReg 0x27 1) = (.sCmd, 0x00012701) ∧
      encode (.readReg 0x0F 256) = (.sCmd, 0x01000F01) ∧ encode .init = (.sCmd, 0x00000004) ∧
      encode .startLed = (.lCmd, 0x00000001) := by decide

/-! ## Host accesses: V11 -/

theorem test_read_s_status_reset : readRegister State.reset 0x004 0 = 0x00000000 := by decide
theorem test_read_l_status_reset : readRegister State.reset 0x024 0 = 0x00000020 := by decide
theorem test_txbuf_keeps_one_byte : reads (hostWrite 0x400 4 0x00000155 State.reset) 0x400 = some 0x00000055 := by decide
theorem test_pattern_is_read_only : reads (hostWrite 0x028 4 5 State.reset) 0x028 = some 0 := by decide
/-- R109: WAITIDLE is `RD 0x004 -> s`; V24 reads 0x0000010C there after INIT. -/
theorem test_waitIdle_binds_s :
    hostStep 0 { ready with program := [.waitIdle] } =
      .next { ready with reads := [{ name := "s", value := 0x0000010C }] } := by rfl
theorem test_byte_access_is_an_error :
    hostWrite 0x001 1 3 State.reset = .next { State.reset with hostErrors := [.hostAccessError 1 1] } := by rfl
theorem test_halfword_read_is_an_error :
    hostRead 0x006 2 "h" 0 State.reset = { State.reset with hostErrors := [.hostAccessError 6 2] } := by rfl

/-! ## Rejects and overrun: V12, V13 -/

/-- Reset with the bus strap false. -/
def noBus : State := { State.reset with config := { State.reset.config with busAvailable := false } }

theorem test_illegal_ranks_above_fatal : reads (hostWrite 0 4 0x00000009 noBus) 0x004 = some 0x00000520 := by decide
theorem test_fatal_ranks_above_seq : reads (hostWrite 0 4 0x00000F01 noBus) 0x004 = some 0x00000820 := by decide
theorem test_seq_ranks_above_arg : reads (hostWrite 0 4 0x00000F01 State.reset) 0x004 = some 0x00000400 := by decide
theorem test_overrun_is_dropped :
    reads (hostWrite 0 4 0x00000005 (resolving (.init .start) 0)) 0x004 = some 0x00000003 := by decide

/-! ## READ_REG and WRITE_REG: V17 -/

theorem test_readReg_length_zero_is_arg : reads (hostWrite 0 4 0x00000F01 ready) 0x004 = some 0x0000030C := by decide
theorem test_readReg_short_read :
    after ⟨0, []⟩ (running (.readReg 0x28 3 (.got 1 2)) 0x0A) 0x004 = 0x0000020C ∧
      after ⟨0, []⟩ (running (.readReg 0x28 3 (.got 1 2)) 0x0A) 0x008 = 2 := by decide
theorem test_writeReg_is_one_released_transaction :
    (sensorStep ⟨2, []⟩
        { running (.writeReg 0x20 1 .start) 0 with
          sensor := stage 0x20 [0x60] (running (.writeReg 0x20 1 .start) 0).sensor }).sensor.busHistory =
      [.bw 0x1E [0x20, 0x60] true 2] := by decide
theorem test_writeReg_short_write :
    after ⟨0, []⟩ (running (.writeReg 0x20 1 (.done 1)) 0) 0x004 = 0x0000020C ∧
      after ⟨0, []⟩ (running (.writeReg 0x20 1 (.done 1)) 0) 0x008 = 1 := by decide

/-! ## RESOLVE_ADDR and INIT: V18, V19 -/

theorem test_resolveAddr_degraded_mode :
    after ⟨0, []⟩ (resolving (.resolveAddr (.low (.got 1 1))) 0x42) 0x004 = 0x00000714 ∧
      after ⟨0, []⟩ (resolving (.resolveAddr (.low (.got 1 1))) 0x42) 0x00C = 0x1D := by decide
theorem test_resolveAddr_does_not_compare_a_short_read :
    (sensorStep ⟨1, []⟩ (resolving (.resolveAddr (.high (.got 0 1))) 0x43)).sensor.busHistory =
      [.bw 0x1D [0x0F] false 1] := by decide
theorem test_init_writes_its_first_pair :
    (sensorStep ⟨2, []⟩ (running (.init .start) 0)).sensor.busHistory = [.bw 0x1E [0x21, 0x00] true 2] := by decide
theorem test_init_last_write_short :
    after ⟨0, []⟩ (running (.init (.wrote false 0x1E false [] 0)) 0) 0x004 = 0x0000020C ∧
      after ⟨0, []⟩ (running (.init (.wrote false 0x1E false [] 0)) 0) 0x008 = 0 := by decide

/-! ## READ_TEMP, AWAIT_DRDY, READ_MOTION: V4, V5, V20 to V23 -/

theorem test_readTemp_negative : after ⟨0, []⟩ (running (.readTemp (.got 1 1)) 0xE6) 0x010 = 0xFFFFFFFF := by decide
theorem test_readTemp_held_write_short :
    after ⟨0, []⟩ (running (.readTemp (.got 0 1)) 0x10) 0x010 = 0 ∧
      after ⟨0, []⟩ (running (.readTemp (.got 0 1)) 0x10) 0x004 = 0x0000020C := by decide
theorem test_awaitDrdy_tests_bit_zero :
    (sensorStep ⟨1, []⟩ (running (.awaitDrdy (.got 1 1)) 0xFE)).sensor.busHistory = [.bw 0x1E [0x27] false 1] := by decide
theorem test_awaitDrdy_times_out :
    after ⟨0, []⟩
        { running (.awaitDrdy (.got 1 0)) 0x01 with config := { Config.suggested with pollLimit := some 1 } } 0x004 =
      0x0000060C := by decide
theorem test_readMotion_last_axis :
    after ⟨0, []⟩ (running (.readMotion (.high .z true 0x00 noAxes (.got 1 1))) 0x40) 0x01C = 0x00001000 := by decide
theorem test_readMotion_short_axis_keeps_its_value :
    after ⟨0, []⟩ (running (.readMotion (.high .z true 0x00 noAxes (.got 1 0))) 0x40) 0x01C = 0 ∧
      after ⟨0, []⟩ (running (.readMotion (.high .z true 0x00 noAxes (.got 1 0))) 0x40) 0x004 = 0x0000020C := by decide
theorem test_tempDecode_v4 :
    tempDecode Config.suggested 0x00 = 25 ∧ tempDecode Config.suggested 0x01 = 26 ∧ tempDecode Config.suggested 0x7F = 152 ∧ tempDecode Config.suggested 0x80 = -103 ∧
      tempDecode Config.suggested 0xFF = 24 := by decide
theorem test_decode14_v5 :
    decode14 0x0000 = 0 ∧ decode14 0x0004 = 1 ∧ decode14 0xFFFC = -1 ∧ decode14 0x7FFC = 8191 ∧
      decode14 0x8000 = -8192 := by decide
theorem test_decode14_v23 :
    decode14 0x0003 = 0 ∧ decode14 0x7FFF = 8191 ∧ decode14 0x8001 = -8191 ∧ decode14 0xFFFB = -1 ∧
      decode14 0xFFFD = 0 ∧ decode14 0xFFFF = 0 ∧ decode14 0x8003 = -8191 := by decide

/-! ## The LED engine: V2, V14 to V16 -/

theorem test_startLed_from_reset :
    reads (hostWrite 0x020 4 1 State.reset) 0x024 = some 0x00000121 ∧
      reads (hostWrite 0x020 4 1 State.reset) 0x030 = some 0x00989680 ∧
      reads (hostWrite 0x020 4 1 State.reset) 0x034 = some 0x00989680 := by decide
theorem test_startLed_without_interrupt_path :
    reads (hostWrite 0x020 4 1 { State.reset with config := { Config.suggested with irqAvailable := false } }) 0x024 =
      some 0x00000822 := by decide
theorem test_period_v2 :
    periodOf Config.suggested 1 = 0x01312D00 ∧ periodOf Config.suggested 9 = 0x05F5E100 := by decide
theorem test_button_odd_edge :
    (btnStep true (lit false 0 0)).led.debounce = 1 ∧ (btnStep true (lit false 0 0)).led.pattern = 0 ∧
      (btnStep true (lit false 0 0)).diag = [] := by decide
theorem test_button_pattern_wraps :
    (btnStep true (lit false 1 9)).led.pattern = 0 ∧ (btnStep true (lit false 1 9)).diag = [⟨.pattern, 0⟩] := by decide
theorem test_button_debounce_wraps_to_even :
    (btnStep true (lit false 0xFFFFFFFF 4)).led.debounce = 0 ∧
      (btnStep true (lit false 0xFFFFFFFF 4)).led.pattern = 5 := by decide
theorem test_button_idle_only_samples :
    (btnStep true { State.reset with led := { State.reset.led with btnQ := false } }).led = State.reset.led := by decide
theorem test_blink_third_tick_of_three :
    (blinkTick { lit true 0 0 with led := { (lit true 0 0).led with ticks := 1 } }).led.ledA = true ∧
      (blinkTick { lit true 0 0 with led := { (lit true 0 0).led with ticks := 1 } }).led.ticks = 3 ∧
      (blinkTick { lit true 0 0 with led := { (lit true 0 0).led with ticks := 1 } }).led.phase = true := by decide

/-! ## Witnesses: a concrete state and operands for the hypotheses of each statement -/

/-- A state in the middle of READ_REG, its held write made, with a lit LED engine: every engine has something to lose. -/
def pending : State :=
  { ready with
    sensor := { ready.sensor with ctl := .run (.readReg 0x27 1 (.held 1)), busHistory := [.bw 0x1E [0x27] false 1] }
    led := { (lit false 1 9).led with period := 100000000, ticks := 1 }
    schedule := [.sensor ⟨0, [0x05]⟩] }

theorem sensorInv_ready : SensorInv ready.config ready.sensor where
  txOk := ⟨⟨.nil, nofun⟩, nofun⟩
  rxOk := ⟨⟨.nil, nofun⟩, nofun⟩
  stagingOk := ⟨⟨.nil, nofun⟩, nofun⟩
  addrUnresolved := nofun
  addrResolved := fun _ => Or.inl rfl
  initializedResolved := fun _ => rfl
  notFoundLow := nofun
  countRange := by decide
  lastCountRange := nofun
  tempRange := by decide
  accRange := by unfold accInRange; decide
  busyAvailable := nofun
  reportedUnavailable := nofun
  running := nofun
  history := nofun

theorem sensorInv_pending : SensorInv pending.config pending.sensor where
  txOk := ⟨⟨.nil, nofun⟩, nofun⟩
  rxOk := ⟨⟨.nil, nofun⟩, nofun⟩
  stagingOk := ⟨⟨.nil, nofun⟩, nofun⟩
  addrUnresolved := nofun
  addrResolved := fun _ => Or.inl rfl
  initializedResolved := fun _ => rfl
  notFoundLow := nofun
  countRange := by decide
  lastCountRange := nofun
  tempRange := by decide
  accRange := by unfold accInRange; decide
  busyAvailable := fun _ => rfl
  reportedUnavailable := nofun
  running := by
    intro r h
    cases h
    exact ⟨rfl, by decide, by decide, by unfold readPtOk; decide⟩
  history := by
    intro v hv
    cases hv with
    | head => exact ⟨Or.inl rfl, by decide, by decide, by decide, fun _ => rfl⟩
    | tail _ h => cases h

theorem ledInv_dark (c : Config) (h : 0 < c.maxPattern) : LedInv c State.reset.led where
  patternRange := h
  idleDark := fun _ => ⟨rfl, rfl, rfl, rfl, rfl, rfl, rfl⟩
  fatalDark := nofun
  runningAvailable := nofun
  ticksRange := nofun
  periodLatched := nofun
  levels := nofun
  lresultRange := ⟨nofun, nofun, nofun, nofun⟩

theorem ledInv_pending : LedInv pending.config pending.led where
  patternRange := by decide
  idleDark := nofun
  fatalDark := nofun
  runningAvailable := fun _ => rfl
  ticksRange := fun _ => by decide
  periodLatched := fun _ => ⟨9, by decide, by decide⟩
  levels := fun _ => rfl
  lresultRange := ⟨nofun, nofun, nofun, nofun⟩

theorem inv_ready : Inv ready := ⟨by decide, sensorInv_ready, ledInv_dark _ (by decide)⟩

theorem inv_pending : Inv pending := ⟨by decide, sensorInv_pending, ledInv_pending⟩

theorem inv_noBus : Inv noBus where
  configOk := by decide
  led := ledInv_dark _ (by decide)
  sensor :=
    { txOk := ⟨⟨.nil, nofun⟩, nofun⟩
      rxOk := ⟨⟨.nil, nofun⟩, nofun⟩
      stagingOk := ⟨⟨.nil, nofun⟩, nofun⟩
      addrUnresolved := fun _ => rfl
      addrResolved := nofun
      initializedResolved := nofun
      notFoundLow := nofun
      countRange := by decide
      lastCountRange := nofun
      tempRange := by decide
      accRange := by unfold accInRange; decide
      busyAvailable := nofun
      reportedUnavailable := nofun
      running := nofun
      history := nofun }

/-- Every OP at the ends of the ranges of R106, and each opcode of R102 and R104. -/
theorem witness_OpcodeMapIsTotal :
    ([0x00000000, 0x00012701, 0x00012002, 0x00000003, 0x00000004, 0x00000005, 0x00000006, 0x00000007, 0x00000008,
        0x000000FF] : List Word).map (fun w => (w.extractLsb' 0 8).toNat) = [0, 1, 2, 3, 4, 5, 6, 7, 8, 255] := by
  decide

theorem witness_IgnoredFieldsDoNotMatter :
    3 ≤ ((0xFFFF0003 : Word).extractLsb' 0 8).toNat ∧ ((0xFFFF0003 : Word).extractLsb' 0 8).toNat ≤ 7 ∧
      3 ≤ ((0x12345607 : Word).extractLsb' 0 8).toNat ∧ ((0x12345607 : Word).extractLsb' 0 8).toNat ≤ 7 := by decide

theorem witness_StepRunsTheWrittenCommand :
    ∃ s : State, s.config.inRange = true ∧ s.program = .memWrite (s.config.baseAddr + Port.sCmd.offset) 4 0x00012701 :: [] ∧
      s.schedule = .host 0 :: [] ∧ decode .sCmd 0x00012701 = .ok (.readReg 0x27 1) :=
  ⟨{ ready with program := [.memWrite 0 4 0x00012701], schedule := [.host 0] }, by decide, rfl, rfl, rfl⟩

theorem witness_StepRunsTheWrittenCommand_lCmd :
    ∃ s : State, s.config.inRange = true ∧ s.program = .memWrite (s.config.baseAddr + Port.lCmd.offset) 4 0x00000001 :: [] ∧
      s.schedule = .host 0 :: [] ∧ decode .lCmd 0x00000001 = .ok .startLed :=
  ⟨{ ready with program := [.memWrite 0x020 4 0x00000001], schedule := [.host 0] }, by decide, rfl, rfl, rfl⟩

theorem witness_PlacedWordRunsNext :
    ready.config.inRange = true ∧ decodeTableWord 32 0x00012701 = some (.readReg 0x27 1) := ⟨by decide, rfl⟩

/-- One configuration on each side of every constraint of R9, and one with another value of each fixed parameter. -/
theorem witness_OnlyBadConfigurationsAreRefused :
    ({ Config.suggested with maxPattern := 0 } : Config).inRange = false ∧
      ({ Config.suggested with baseDelay := 0 } : Config).inRange = false ∧
      ({ Config.suggested with maxPattern := 1, baseDelay := 2 ^ 32 } : Config).inRange = false ∧
      ({ Config.suggested with maxPattern := 1, baseDelay := 2 ^ 32 - 1 } : Config).inRange = true ∧
      ({ Config.suggested with pollLimit := some 0 } : Config).inRange = false ∧
      ({ Config.suggested with pollLimit := some 1 } : Config).inRange = true ∧
      ({ Config.suggested with pollLimit := some (2 ^ 32) } : Config).inRange = false ∧
      ({ Config.suggested with stagingSize := 255 } : Config).inRange = false ∧
      ({ Config.suggested with maxWritePayload := 256 } : Config).inRange = false ∧
      ({ Config.suggested with rxSize := 255 } : Config).inRange = false ∧
      ({ Config.suggested with debounceWidth := 31 } : Config).inRange = false ∧
      ({ Config.suggested with drdyBit := 1 } : Config).inRange = false ∧
      ({ Config.suggested with tempBias := 24 } : Config).inRange = false := by decide

theorem witness_StepTakesTheScheduledTurn :
    ready.config.inRange = true ∧ ready.schedule = [] ∧
      ∀ a : AgentStep, ({ ready with schedule := a :: [] } : State).config.inRange = true ∧
        ({ ready with schedule := a :: [] } : State).schedule = a :: [] :=
  ⟨inv_ready.configOk, rfl, fun _ => ⟨inv_ready.configOk, rfl⟩⟩

/-- A wrong width, a misaligned offset, one word below the window and one word above it. -/
theorem witness_RefusedAccessIsOnlyRecorded :
    (2 : Nat) ≠ 4 ∧ ((2 : Int) - 0) % 4 ≠ 0 ∧ ((0x3FFFFFFC : Int) - 0x40000000) < 0 ∧
      (0xFFF : Int) < (0x1000 : Int) - ready.config.baseAddr := by decide

theorem witness_AllowedAccessesReachTheirRegister :
    0x000 ≤ 0xFFF ∧ 0x000 % 4 = 0 ∧ 0xFFC ≤ 0xFFF ∧ 0xFFC % 4 = 0 := by decide

/-- The first and last reserved and buffer offsets, an engine that is not BUSY and one that is. -/
theorem witness_WindowReads :
    (0x038 ≤ 4 * 14 ∧ 4 * 255 ≤ 0x3FC) ∧ (0xC00 ≤ 4 * 768 ∧ 4 * 1023 ≤ 0xFFC) ∧ 0 < 256 ∧ 255 < 256 ∧
      ready.sensor.busy = false ∧ pending.sensor.busy = true := ⟨by omega, by omega, by omega, by omega, rfl, rfl⟩

theorem witness_RxbufReadsAnyValueWhileBusy :
    pending.sensor.busy = true ∧ 0x7FC < 0x800 ∧ 0xBFC < 0xC00 := ⟨rfl, by omega, by omega⟩

theorem witness_OtherWritesAreIgnored :
    ∀ offset ∈ [0x004, 0x3FC, 0x800, 0xFFC],
      offset ≠ 0x000 ∧ offset ≠ 0x020 ∧ (offset < 0x400 ∨ 0x7FC < offset) := by decide

theorem witness_TxbufWriteStoresOneByte : 0 < 256 ∧ 255 < 256 ∧ Memory.wf ready.sensor.txbuf :=
  ⟨by decide, by decide, .nil, nofun⟩

theorem witness_CommandWhileBusyIsDropped : pending.sensor.busy = true ∧ ready.sensor.busy = false := by decide

theorem witness_IllegalWordsReportIllegal :
    ready.sensor.busy = false ∧
      (∀ w ∈ ([0x00000000, 0x00000008, 0x000000FF] : List Word),
        (w.extractLsb' 0 8).toNat = 0 ∨ 8 ≤ (w.extractLsb' 0 8).toNat) ∧
      ∀ w ∈ ([0x00000000, 0x00000002] : List Word), (w.extractLsb' 0 8).toNat ≠ 1 := ⟨rfl, by simp, by simp⟩

theorem witness_RejectConditionsInOrder :
    canTake State.reset ∧ State.reset.sensor.resolved = false ∧ State.reset.sensor.initialized = false ∧
      canTake ready ∧ ready.sensor.resolved = true ∧ ready.sensor.initialized = true ∧
      (0 : Half).toNat < 1 ∧ 256 < (257 : Half).toNat ∧ 255 < (256 : Half).toNat :=
  ⟨⟨rfl, rfl, by decide⟩, rfl, rfl, ⟨rfl, rfl, by decide⟩, rfl, rfl, by decide, by decide, by decide⟩

theorem witness_AcceptedCommandIsLatched :
    canTake State.reset ∧ State.reset.sensor.resolved = false ∧ State.reset.sensor.initialized = false ∧
      canTake ready ∧ ready.sensor.resolved = true ∧ ready.sensor.initialized = true ∧
      1 ≤ (1 : Half).toNat ∧ (256 : Half).toNat ≤ 256 ∧ (0 : Half).toNat ≤ 255 ∧ (255 : Half).toNat ≤ 255 :=
  ⟨⟨rfl, rfl, by decide⟩, rfl, rfl, ⟨rfl, rfl, by decide⟩, rfl, rfl, by decide, by decide, by decide, by decide⟩

theorem witness_FatalBusIsReportedOnce :
    Inv noBus ∧ noBus.config.busAvailable = false ∧ Instr.init ≠ .startLed ∧ step noBus = .next noBus :=
  ⟨inv_noBus, rfl, nofun, rfl⟩

theorem witness_ResultsAppearAtCompletion :
    pending.sensor.busy = true ∧ (sensorStep ⟨0, [0x05]⟩ pending).sensor.busy = true ∧
      (running (.readReg 0x27 1 (.got 1 1)) 0).sensor.busy = true ∧
      (sensorStep ⟨0, []⟩ (running (.readReg 0x27 1 (.got 1 1)) 0)).sensor.busy = false := by decide

theorem witness_OtherAgentsLeaveTheRunningCommand :
    ∃ s t : State, s.schedule = .btn true :: [] ∧ s.sensor.busy = true ∧ step s = .next t :=
  ⟨{ pending with schedule := [.btn true] }, _, rfl, by decide, rfl⟩

theorem witness_ReadRegReadsTheRegister :
    canTake ready ∧ ready.sensor.resolved = true ∧ 1 ≤ (1 : Half).toNat ∧ (256 : Half).toNat ≤ 256 :=
  ⟨⟨rfl, rfl, by decide⟩, rfl, by decide, by decide⟩

theorem witness_ReceivedBytesArePlacedInOrder : Memory.wf ready.sensor.rxbuf := ⟨.nil, nofun⟩

theorem witness_WriteRegWritesThePayload :
    canTake ready ∧ ready.sensor.resolved = true ∧ (0 : Half).toNat ≤ 255 ∧ (255 : Half).toNat ≤ 255 ∧
      Memory.wf ready.sensor.staging :=
  ⟨⟨rfl, rfl, by decide⟩, rfl, by decide, by decide, .nil, nofun⟩

/-- A match, a mismatch and a short read. -/
theorem witness_ResolveAddrChoosesTheAddress :
    canTake State.reset ∧ State.reset.sensor.resolved = false ∧ Memory.wf State.reset.sensor.rxbuf ∧
      answered ⟨1, []⟩ ⟨0, [0x43]⟩ = some Config.suggested.whoAmIValue ∧
      answered ⟨1, []⟩ ⟨0, [0x00]⟩ ≠ some Config.suggested.whoAmIValue ∧
      answered ⟨0, []⟩ ⟨0, [0x43]⟩ ≠ some Config.suggested.whoAmIValue :=
  ⟨⟨rfl, rfl, by decide⟩, rfl, ⟨.nil, nofun⟩, by decide, by decide, by decide⟩

theorem witness_InitWritesTheConfiguration :
    ∃ s : State, canTake s ∧ s.sensor.initialized = false ∧ s.sensor.resolved = true ∧
      [(⟨2, []⟩ : BusDraw), ⟨2, []⟩, ⟨2, []⟩].length = s.config.initWrites.length ∧ Memory.wf s.sensor.staging :=
  ⟨{ ready with sensor := { ready.sensor with initialized := false } }, ⟨rfl, rfl, by decide⟩, rfl, rfl, rfl, .nil, nofun⟩

theorem witness_InitResolvesThenWrites :
    canTake State.reset ∧ State.reset.sensor.initialized = false ∧ State.reset.sensor.resolved = false ∧
      [(⟨2, []⟩ : BusDraw), ⟨2, []⟩, ⟨2, []⟩].length = State.reset.config.initWrites.length ∧
      Memory.wf State.reset.sensor.staging ∧ Memory.wf State.reset.sensor.rxbuf ∧
      answered ⟨1, []⟩ ⟨0, [0x43]⟩ = some State.reset.config.whoAmIValue ∧
      answered ⟨1, []⟩ ⟨0, [0x00]⟩ ≠ some State.reset.config.whoAmIValue :=
  ⟨⟨rfl, rfl, by decide⟩, rfl, rfl, rfl, ⟨.nil, nofun⟩, ⟨.nil, nofun⟩, by decide, by decide⟩

theorem witness_ReadTempDecodesTheByte :
    canTake ready ∧ ready.sensor.initialized = true ∧ Memory.wf ready.sensor.rxbuf :=
  ⟨⟨rfl, rfl, by decide⟩, rfl, .nil, nofun⟩

/-- `ready` with POLL_LIMIT 2. -/
def limited : State := { ready with config := { ready.config with pollLimit := some 2 } }

/-- A poll that answers without the bit, one that is short, and one that sees the bit (V21). -/
def notReady : BusDraw × BusDraw := (⟨1, []⟩, ⟨0, [0xFE]⟩)
def shortPoll : BusDraw × BusDraw := (⟨1, []⟩, ⟨0, []⟩)
def readyPoll : BusDraw × BusDraw := (⟨1, []⟩, ⟨0, [0x03]⟩)

/-- The last poll POLL_LIMIT still allows. -/
theorem witness_AwaitDrdyEndsAtTheReadyPoll :
    canTake limited ∧ limited.sensor.initialized = true ∧ limited.config.inRange = true ∧
      Memory.wf limited.sensor.rxbuf ∧
      (∀ p ∈ [notReady], sawReady limited.config p = false) ∧
      sawReady limited.config readyPoll = true ∧
      ∀ l, limited.config.pollLimit = some l → [notReady].length < l := by
  refine ⟨⟨rfl, rfl, by decide⟩, rfl, by decide, ⟨.nil, nofun⟩, by decide, by decide, ?_⟩
  intro l h
  cases h
  decide

theorem witness_BoundedPollsTimeOut :
    canTake limited ∧ limited.sensor.initialized = true ∧ limited.config.inRange = true ∧
      Memory.wf limited.sensor.rxbuf ∧
      (∀ p ∈ [notReady] ++ [shortPoll], sawReady limited.config p = false) ∧
      limited.config.pollLimit =
        some ([notReady] ++ [shortPoll]).length :=
  ⟨⟨rfl, rfl, by decide⟩, rfl, by decide, ⟨.nil, nofun⟩, by decide, rfl⟩

/-- A poll that answers 0, and one whose held write sent nothing though its byte has the bit set. -/
theorem witness_UnboundedPollingHangs :
    canTake ready ∧ ready.sensor.initialized = true ∧ ready.config.pollLimit = none ∧ Memory.wf ready.sensor.rxbuf ∧
      ∀ p ∈ ([(⟨1, []⟩, ⟨0, [0x00]⟩), (⟨0, []⟩, ⟨0, [0x01]⟩)] : List (BusDraw × BusDraw)),
        sawReady ready.config p = false :=
  ⟨⟨rfl, rfl, by decide⟩, rfl, rfl, ⟨.nil, nofun⟩, by decide⟩

theorem witness_ReadMotionReadsTheAxes :
    canTake limited ∧ limited.sensor.initialized = true ∧ limited.config.inRange = true ∧
      Memory.wf limited.sensor.rxbuf ∧
      (∀ p ∈ [notReady], sawReady limited.config p = false) ∧
      sawReady limited.config readyPoll = true ∧
      ∀ l, limited.config.pollLimit = some l → [notReady].length < l := by
  refine ⟨⟨rfl, rfl, by decide⟩, rfl, by decide, ⟨.nil, nofun⟩, by decide, by decide, ?_⟩
  intro l h
  cases h
  decide

theorem witness_DecodeRoundsTowardZero :
    (-8192 : Int) ≤ -8192 ∧ (-8192 : Int) ≤ 8191 ∧ (-8192 : Int) ≤ 8191 ∧ (8191 : Int) ≤ 8191 := by decide

theorem witness_StartLedByState :
    State.reset.led.state = .idle ∧ State.reset.config.irqAvailable = true ∧
      ({ State.reset with config := { Config.suggested with irqAvailable := false } } : State).config.irqAvailable = false ∧
      (lit true 0 0).led.state = .running ∧
      ({ State.reset with led := { State.reset.led with state := .fatal } } : State).led.state = .fatal := by decide

theorem witness_FirstPeriodIsBaseDelay :
    Inv ready ∧ ready.led.state = .idle ∧ ready.config.irqAvailable = true := ⟨inv_ready, rfl, rfl⟩

/-- No edge, an odd edge, an even edge, and an edge outside RUNNING; the last pattern before the wrap. -/
theorem witness_ButtonStepCountsRawEdges :
    (lit true 0 0).config.inRange = true ∧ (lit false 1 9).led.pattern.toNat < (lit false 1 9).config.maxPattern ∧
      ¬((lit true 0 0).led.btnQ = false ∧ true = true) ∧ State.reset.led.state ≠ .running ∧
      (lit false 0 0).led.btnQ = false ∧ (lit false 0 0).led.state = .running ∧
      ((lit false 0 0).led.debounce.toNat + 1) % 2 ^ 32 % 2 = 1 ∧
      ((lit false 0xFFFFFFFF 9).led.debounce.toNat + 1) % 2 ^ 32 % 2 = 0 := by decide

theorem witness_EverySecondRawEdgeIsAPress :
    (lit false 1 9).config.inRange = true ∧ (lit false 1 9).led.state = .running ∧
      (lit false 1 9).led.pattern.toNat < (lit false 1 9).config.maxPattern := by decide

theorem witness_BlinkPeriodIncreases :
    Config.suggested.inRange = true ∧ (0 : Word).toNat < Config.suggested.maxPattern ∧
      (9 : Word).toNat < Config.suggested.maxPattern ∧ (0 : Word).toNat < (9 : Word).toNat := by decide

theorem witness_BlinkTickByPhase :
    State.reset.led.state ≠ .running ∧ (lit true 0 0).led.state = .running ∧ (lit true 0 0).led.ticks ≠ 1 ∧
      pending.led.state = .running ∧ pending.led.ticks = 1 ∧ pending.led.phase = false ∧
      ({ pending.led with phase := true } : Led).phase = true := by decide

/-- Before the last tick, and at the last tick of each half-cycle. -/
theorem witness_HalfCycleLastsItsTicks :
    (lit true 0 0).led.state = .running ∧ 1 ≤ (lit true 0 0).led.ticks.toNat ∧
      tickCount [none, some true, none] < (lit true 0 0).led.ticks.toNat ∧
      tickCount [none, some true, none] + 1 = (lit true 0 0).led.ticks.toNat ∧
      (lit true 0 0).led.phase = false ∧ ({ (lit true 0 0).led with phase := true } : Led).phase = true := by decide

theorem witness_LedTimelineOfAHeldPattern :
    ∃ s : State, s.config.inRange = true ∧ s.led.state = .running ∧ s.led.pattern.toNat < s.config.maxPattern ∧
      s.led.phase = false ∧ s.led.period = periodOf s.config s.led.pattern ∧ s.led.ticks = s.led.period ∧
      2 < s.config.baseDelay * (s.led.pattern.toNat + 1) ∧
      5 < 2 * (s.config.baseDelay * (s.led.pattern.toNat + 1)) :=
  ⟨{ lit true 0 0 with config := { Config.suggested with baseDelay := 3 } }, by decide⟩

theorem witness_LedStateLeftOnlyAsStated :
    ∃ s t : State, s.schedule = .host 0 :: [] ∧ step s = .next t ∧ s.led.state = .idle ∧ t.led.state ≠ .idle :=
  ⟨{ ready with program := [opCommand ready.config .startLed], schedule := [.host 0] }, _, rfl, rfl, rfl, by decide⟩

theorem witness_LedStateLeftOnlyAsStated_kept :
    ∃ s t : State, s.schedule = .blink :: [] ∧ step s = .next t ∧ s.led.state = .running :=
  ⟨{ pending with schedule := [.blink] }, _, rfl, rfl, rfl⟩

theorem witness_EnginesAreIndependent :
    (∃ t, exec .startLed ready = .next t) ∧ Instr.readTemp ≠ .startLed ∧ ∃ t, exec .readTemp ready = .next t :=
  ⟨⟨_, rfl⟩, nofun, ⟨_, rfl⟩⟩

theorem witness_PersistentFlagsStayUntilReset :
    ∃ t : State, Inv pending ∧ pending.schedule = .sensor ⟨0, [0x05]⟩ :: [] ∧ step pending = .next t ∧
      pending.sensor.resolved = true ∧ pending.sensor.initialized = true :=
  ⟨_, inv_pending, rfl, rfl, rfl, rfl⟩

theorem witness_EveryStepKeepsTheInvariants : ∃ t : State, Inv pending ∧ step pending = .next t :=
  ⟨_, inv_pending, rfl⟩

/-- The last entry of each buffer, with a byte drawn for it. -/
theorem witness_ResetGivesTheResetValues :
    pending.config.inRange = true ∧ 255 < (List.replicate 256 (0xA5 : Byte)).length ∧ 255 < 256 :=
  ⟨by decide, by rw [List.length_replicate]; omega, by omega⟩

theorem witness_ResetMeetsTheInvariants :
    pending.config.inRange = true ∧ ∀ v ∈ pending.sensor.busHistory, eventOk pending.config v :=
  ⟨by decide, sensorInv_pending.history⟩

theorem witness_HeldWriteStaysLast : ∃ t : State, Inv pending ∧ heldIsLast pending ∧ step pending = .next t := by
  refine ⟨_, inv_pending, ?_, rfl⟩
  intro p h
  cases h
  rfl

theorem witness_ReadFollowsItsHeldWrite :
    pendingRead pending.config pending.sensor = some ⟨0x1E, 0x27, 1, 1⟩ := by decide

theorem witness_OnlySensorStepsMakeTraffic :
    ∃ t : State, step pending = .next t ∧ t.sensor.busHistory ≠ pending.sensor.busHistory :=
  ⟨_, rfl, by decide⟩

theorem witness_DiagnosticEventsAreTheThree :
    ∃ s t : State, step s = .next t ∧ t.diag ≠ s.diag :=
  ⟨{ pending with schedule := [.btn true] }, _, rfl, by decide⟩

theorem witness_WaitIdleWaitsForBusy :
    ∃ s u : State, s.program = .waitIdle :: [] ∧ s.sensor.busy = true ∧ u.program = .waitIdle :: [] ∧
      u.sensor.busy = false :=
  ⟨{ pending with program := [.waitIdle] }, { ready with program := [.waitIdle] }, rfl, rfl, rfl, rfl⟩

theorem witness_CommandSyntaxIssuesTheCommand :
    ∃ s : State, s.program = opCommand s.config (.readReg 0x27 1) :: [] :=
  ⟨{ ready with program := [opCommand ready.config (.readReg 0x27 1)] }, rfl⟩

theorem witness_PayloadSyntaxFillsTxbuf :
    ∃ s : State, s.config.inRange = true ∧ ([0x11, 0x22] : List Byte).length ≤ 256 ∧ Memory.wf s.sensor.txbuf ∧
      ([0, 0] : List Byte).length = ([0x11, 0x22] : List Byte).length ∧
      s.program = opsPayload s.config 0 [0x11, 0x22] ++ [] ∧ s.schedule = ([0, 0] : List Byte).map AgentStep.host :=
  ⟨{ ready with program := opsPayload ready.config 0 [0x11, 0x22], schedule := [.host 0, .host 0] },
    by decide, by decide, ⟨.nil, nofun⟩, rfl, rfl, rfl⟩

/-- A command that polls with a bounded limit, and one that does not with none. -/
theorem witness_CommandRunsEnd :
    ∃ s : State, Inv s ∧ noHostError s ∧ s.sensor.busy = false ∧ s.program = [opCommand s.config .readTemp] ∧
      s.schedule = .host 0 :: List.replicate 18 (.sensor ⟨1, [0x05]⟩) ∧
      (s.config.pollLimit = some 0 ∨ Instr.readTemp ≠ .awaitDrdy ∧ Instr.readTemp ≠ .readMotion) ∧
      busAnswers (2 * 0 + s.config.initWrites.length + 15) (List.replicate 18 (.sensor ⟨1, [0x05]⟩)) :=
  ⟨{ ready with
      program := [opCommand ready.config .readTemp]
      schedule := .host 0 :: List.replicate 18 (.sensor ⟨1, [0x05]⟩) },
    ⟨inv_ready.configOk, inv_ready.sensor, inv_ready.led⟩, rfl, rfl, rfl, rfl, Or.inr ⟨nofun, nofun⟩,
    by unfold busAnswers; decide⟩

theorem witness_CommandRunsEnd_polling :
    ∃ s : State, Inv s ∧ noHostError s ∧ s.sensor.busy = false ∧ s.program = [opCommand s.config .readMotion] ∧
      s.schedule = .host 0 :: List.replicate 22 (.sensor ⟨1, [0x05]⟩) ∧
      (s.config.pollLimit = some 2 ∨ Instr.readMotion ≠ .awaitDrdy ∧ Instr.readMotion ≠ .readMotion) ∧
      busAnswers (2 * 2 + s.config.initWrites.length + 15) (List.replicate 22 (.sensor ⟨1, [0x05]⟩)) :=
  ⟨{ limited with
      program := [opCommand limited.config .readMotion]
      schedule := .host 0 :: List.replicate 22 (.sensor ⟨1, [0x05]⟩) },
    ⟨by decide, { sensorInv_ready with }, ledInv_dark _ (by decide)⟩, rfl, rfl, rfl, rfl, Or.inl rfl,
    by unfold busAnswers; decide⟩

theorem witness_BuffersThatReadTheSameAreEqual :
    Memory.wf [(3, 0x05)] ∧ Memory.wf (Memory.write [] 3 0x05) ∧
      ∀ i, Memory.read [(3, 0x05)] i = Memory.read (Memory.write [] 3 0x05) i :=
  ⟨by decide, by decide, fun _ => rfl⟩

end Sys2Proof.Tests
end

section
/-! PROOFS. The family 00_scope.md: which configurations have a meaning (R8, R9), and that every step in one completes. -/

namespace Sys2Proof.Machine

/-- R8's fixed values, parameter by parameter. -/
theorem Config.fixedAsStated_iff (c : Config) : c.fixedAsStated = true ↔
    c.stagingSize = 256 ∧ c.maxWritePayload = 255 ∧ c.rxSize = 256 ∧ c.debounceWidth = 32 ∧ c.drdyBit = 0 ∧
      c.tempBias = 25 := by
  simp [Config.fixedAsStated, and_assoc]

/-- A configuration has no meaning just when it breaks one constraint of R9 or has another value for a parameter R8
fixes. -/
theorem Config.not_inRange_iff (c : Config) : ¬c.inRange = true ↔
    c.maxPattern < 1 ∨ c.baseDelay < 1 ∨ 2 ^ 32 - 1 < c.baseDelay * c.maxPattern ∨
      (∃ l, c.pollLimit = some l ∧ (l < 1 ∨ 2 ^ 32 - 1 < l)) ∨
      c.stagingSize ≠ 256 ∨ c.maxWritePayload ≠ 255 ∨ c.rxSize ≠ 256 ∨ c.debounceWidth ≠ 32 ∨ c.drdyBit ≠ 0 ∨
      c.tempBias ≠ 25 := by
  rw [Config.inRange_iff, Config.fixedAsStated_iff]
  simp only [not_and_or, not_forall, exists_prop, not_le, or_assoc, ne_eq]

/-- A configuration without a meaning is refused (R9). -/
theorem step_of_not_inRange {s : State} (h : ¬s.config.inRange = true) :
    step s = .refused .configurationOutOfRange := if_neg h

/-- In a configuration with a meaning every step completes: the scheduled agent's, or none (R84, R227). -/
theorem step_next_of_inRange {s : State} (h : s.config.inRange = true) : ∃ t, step s = .next t := by
  rw [step, if_pos h]
  split
  · exact ⟨s, rfl⟩
  · exact agentStep_next _ _

/-- Settles O7: the obligation's list is `inRange`'s negation, and `step` branches on `inRange` alone. -/
theorem onlyBadConfigurationsAreRefused : Obligations.OnlyBadConfigurationsAreRefused := by
  intro s
  dsimp only
  rw [← Config.not_inRange_iff, not_not]
  exact ⟨step_of_not_inRange, step_next_of_inRange⟩

end Sys2Proof.Machine
end

section
/-! PROOFS. The family 10_state.md: what the registers and buffers hold, and the invariant every step keeps. -/

namespace Sys2Proof.Machine

/-! ## The canonical form of the buffers -/

/-- In the canonical form a pair is listed exactly if its byte is what its index reads, and not blank. -/
theorem Memory.mem_iff_read {m : Memory} (h : Memory.wf m) (c : Host.Cell) :
    c ∈ m ↔ m.read c.1 = c.2 ∧ c.2 ≠ Memory.blank := by
  refine ⟨fun hc => ⟨?_, h.2 c hc⟩, ?_⟩
  · induction m with
    | nil => cases hc
    | cons d m ih =>
      have hm : Memory.wf m := ⟨h.1.of_cons, fun c hc => h.2 c (.tail _ hc)⟩
      obtain ⟨a, b⟩ := d
      rcases List.mem_cons.1 hc with rfl | hc
      · simp [Memory.read_cons]
      · have hlt : a < c.1 := List.rel_of_pairwise_cons h.1 hc
        rw [Memory.read_cons, if_neg (by omega), ih hm hc]
  · rintro ⟨hr, hb⟩
    clear h
    induction m with
    | nil => exact absurd hr.symm hb
    | cons d m ih =>
      obtain ⟨a, b⟩ := d
      rw [Memory.read_cons] at hr
      split at hr
      · rename_i ha
        subst ha hr
        exact .head _
      · exact .tail _ (ih hr)

/-- Two canonical buffers that read the same list the same pairs in the same order. -/
theorem Memory.ext_read {m n : Memory} (hm : Memory.wf m) (hn : Memory.wf n) (h : ∀ i, m.read i = n.read i) :
    m = n := by
  have hirrefl : Std.Irrefl fun a b : Host.Cell => a.1 < b.1 := ⟨fun a => lt_irrefl a.1⟩
  have hantisymm : Std.Antisymm fun a b : Host.Cell => a.1 < b.1 := ⟨fun _ _ hab hba => absurd hba (lt_asymm hab)⟩
  refine hm.1.eq_of_mem_iff hn.1 fun c => ?_
  rw [Memory.mem_iff_read hm, Memory.mem_iff_read hn, h]

/-- Settles O60, from the listed pairs of a canonical buffer and what a write does to its reads. -/
theorem buffersThatReadTheSameAreEqual : Obligations.BuffersThatReadTheSameAreEqual :=
  ⟨fun _ _ => Memory.ext_read, fun _ i v h => ⟨Memory.write_wf h i v, Memory.read_write h i v⟩⟩

/-! ## The register window -/

/-- A read above the named registers and outside both buffers is a read of a reserved offset (R22, R74). -/
theorem readRegister_reserved (s : State) (d : Byte) {o : Nat} (h : 0x038 ≤ o)
    (hout : o < 0x400 ∨ 0xBFC < o) : readRegister s o d = 0 := by
  rw [readRegister_other s o d h, readBuffers_none s.sensor o d hout]

/-- S_TXBUF[i] reads its byte, zero-extended (R40). -/
theorem readRegister_txbuf (s : State) (d : Byte) {i : Nat} (h : i < 256) :
    readRegister s (0x400 + 4 * i) d = BitVec.ofNat 32 (s.sensor.txbuf.read i).toNat := by
  rw [readRegister_other s _ d (by omega), readBuffers_tx s.sensor i d h, byteRegister, setWidth_ofNat]

/-- S_RXBUF[i] reads its byte, or any byte while BUSY, zero-extended (R41, R76). -/
theorem readRegister_rxbuf (s : State) (d : Byte) {i : Nat} (h : i < 256) :
    readRegister s (0x800 + 4 * i) d =
      BitVec.ofNat 32 (if s.sensor.busy then d else s.sensor.rxbuf.read i).toNat := by
  rw [readRegister_other s _ d (by omega), readBuffers_rx s.sensor i d h, byteRegister, setWidth_ofNat]

/-- Settles O11, range by range: the named registers by their own rows, the rest by the buffers' and the reserved ranges. -/
theorem windowReads : Obligations.WindowReads := by
  have signed : ∀ v : Half, (v.signExtend 32).toInt = v.toInt := fun _ => BitVec.toInt_signExtend_of_le (by omega)
  intro s d
  exact ⟨rfl, rfl, rfl, rfl, setWidth_ofNat _, setWidth_ofNat _, signed _, signed _, signed _, signed _,
    rfl, rfl, rfl, rfl, fun k hl hu => readRegister_reserved s d hl (by omega),
    fun k hl hu => readRegister_reserved s d (by omega) (by omega),
    fun i => readRegister_txbuf s d, fun i => readRegister_rxbuf s d⟩

/-! ## The status words -/

/-- The flags of S_STATUS beside BUSY, bit by bit (R23). -/
theorem sStatus_flags (c : Config) (e : Sensor) :
    (sStatus c e).getLsbD 1 = e.ovr ∧ (sStatus c e).getLsbD 2 = e.resolved ∧
      (sStatus c e).getLsbD 3 = e.initialized ∧ (sStatus c e).getLsbD 4 = e.devNotFound ∧
      (sStatus c e).getLsbD 5 = !c.busAvailable := by
  simp only [sStatus, flagBit, BitVec.getLsbD_append]
  simp

/-- The fields of S_STATUS above its flags (R23). -/
theorem sStatus_fields (c : Config) (e : Sensor) :
    (sStatus c e).extractLsb' 6 2 = 0 ∧ (sStatus c e).extractLsb' 12 20 = 0 ∧
      (sStatus c e).extractLsb' 8 4 = e.result.bits := by
  unfold sStatus
  simp (disch := decide) only [BitVec.extractLsb'_append_eq_of_le, BitVec.extractLsb'_append_eq_of_add_le,
    Nat.reduceSub, BitVec.extractLsb'_eq_self, and_self]

/-- The flags of L_STATUS (R33). -/
theorem lStatus_flags (l : Led) :
    (lStatus l).getLsbD 2 = l.ledA ∧ (lStatus l).getLsbD 3 = l.ledB ∧ (lStatus l).getLsbD 4 = l.phase ∧
      (lStatus l).getLsbD 5 = l.btnQ := by
  simp only [lStatus, flagBit, BitVec.getLsbD_append]
  simp

/-- The fields of L_STATUS below and above its flags (R33). -/
theorem lStatus_fields (l : Led) :
    (lStatus l).extractLsb' 0 2 = l.state.bits ∧ (lStatus l).extractLsb' 6 2 = 0 ∧
      (lStatus l).extractLsb' 12 20 = 0 ∧ (lStatus l).extractLsb' 8 4 = l.lresult.bits := by
  unfold lStatus
  simp (disch := decide) only [BitVec.extractLsb'_append_eq_of_le, BitVec.extractLsb'_append_eq_of_add_le,
    Nat.reduceSub, BitVec.extractLsb'_eq_self, and_self]

/-- Settles O13: the fields of the word S_STATUS reads, with each result code written out. -/
theorem sensorStatusFields : Obligations.SensorStatusFields := by
  intro s d
  obtain ⟨hovr, hres, hini, hdnf, hfatal⟩ := sStatus_flags s.config s.sensor
  obtain ⟨h6, h12, hcode⟩ := sStatus_fields s.config s.sensor
  refine ⟨?_, hovr, hres, hini, hdnf, hfatal, h6, h12, hcode.trans ?_⟩
  · rw [readRegister_busy, busy_iff]
  · cases s.sensor.result <;> rfl

/-- Settles O14: the fields of the word L_STATUS reads, with each state and result code written out. -/
theorem ledStatusFields : Obligations.LedStatusFields := by
  intro s d
  obtain ⟨hA, hB, hphase, hbtn⟩ := lStatus_flags s.led
  obtain ⟨hstate, h6, h12, hcode⟩ := lStatus_fields s.led
  refine ⟨hstate.trans ?_, hA, hB, hphase, hbtn, h6, h12, hcode.trans ?_⟩
  · cases s.led.state <;> rfl
  · cases s.led.lresult <;> rfl

/-! ## Writes to S_TXBUF and S_CMD -/

/-- A write to S_TXBUF[i] stores the low byte in the buffer and touches nothing else (R40, R73). -/
theorem writeRegister_txbuf (s : State) {i : Nat} (v : Word) (h : i < 256) :
    writeRegister (0x400 + 4 * i) v s =
      .next { s with sensor := { s.sensor with txbuf := s.sensor.txbuf.write i (byteLane v 0) } } := by
  have hi : txIndex (0x400 + 4 * i) = some i := by
    rw [txIndex, if_pos (by omega)]
    congr 1
    omega
  rw [writeRegister, portAt_none (by omega) (by omega)]
  simp only [writeBuffers, hi]

/-- Settles O16: the write is `Memory.write`, which keeps the canonical form and every other entry. -/
theorem txbufWriteStoresOneByte : Obligations.TxbufWriteStoresOneByte := by
  intro s i v hi hwf
  refine ⟨_, writeRegister_txbuf s v hi, Memory.write_wf hwf i _, ?_, fun j hj => ?_⟩
  · rw [Memory.read_write hwf, if_pos rfl]
    rfl
  · rw [Memory.read_write hwf, if_neg hj]

/-- No word at S_CMD spells START_LED (R102). -/
theorem decode_sCmd_ne_startLed (w : Word) : decode .sCmd w ≠ .ok .startLed := by
  intro h
  simp only [decode, decodeSensor] at h
  split at h <;> cases h

/-- A write of any word to S_CMD is `issueSensor` with the word's code and start, and no start touches OVR (R25, R155). -/
theorem writeRegister_sCmd (w : Word) (s : State) : ∃ code start,
    writeRegister 0x000 w s = .next (issueSensor code start s) ∧ ∀ e, (start e).ovr = e.ovr := by
  show ∃ code start, writeCommand .sCmd w s = .next (issueSensor code start s) ∧ _
  unfold writeCommand
  split
  · rename_i i hd
    cases i with
    | startLed => exact absurd hd (decode_sCmd_ne_startLed w)
    | _ => exact ⟨_, _, rfl, fun _ => rfl⟩
  · exact ⟨some .illegal, fun e => e, rfl, fun _ => rfl⟩

/-- Not while BUSY, an issued command leaves OVR 0, accepted or rejected (R25, R155). -/
theorem issueSensor_ovr {code : Option ResultCode} {start : Sensor → Sensor} {s : State}
    (hstart : ∀ e, (start e).ovr = e.ovr) (hb : s.sensor.busy = false) :
    (issueSensor code start s).sensor.ovr = false := by
  cases code with
  | none => rw [issueSensor_accept _ hb]; exact hstart _
  | some c =>
    by_cases hc : c = .fatal
    · rw [hc, issueSensor_fatal _ hb]
    · rw [issueSensor_reject _ hb hc]; rfl

/-- Settles O17: every write to S_CMD is `issueSensor`, which drops while BUSY and clears OVR otherwise. -/
theorem commandWhileBusyIsDropped : Obligations.CommandWhileBusyIsDropped := by
  intro s w
  obtain ⟨code, start, hw, hstart⟩ := writeRegister_sCmd w s
  exact ⟨fun hb => by rw [hw, issueSensor_busy _ _ hb], fun hb => ⟨_, hw, issueSensor_ovr hstart hb⟩⟩

/-! ## The engine's invariant apart from the running command -/

/-- Of `SensorInv`, what does not speak of the running command: the engine with its command taken away. -/
def EngineInv (c : Config) (e : Sensor) : Prop := SensorInv c { e with ctl := .idle }

/-- The engine's invariant does not need the command. -/
theorem SensorInv.engine {c : Config} {e : Sensor} (h : SensorInv c e) : EngineInv c e :=
  { h with busyAvailable := nofun, running := nofun }

/-- An engine that runs no command has nothing more to meet. -/
theorem EngineInv.idle {c : Config} {e : Sensor} (h : EngineInv c e) (hi : e.ctl = .idle) : SensorInv c e :=
  { h with
    busyAvailable := fun hb => by simp [busy_of_idle hi] at hb
    running := fun r hr => by simp [hi] at hr }

/-- An engine that runs a possible command, its bus there, has nothing more to meet (R222, R224). -/
theorem EngineInv.run {c : Config} {e : Sensor} {r : Running} (h : EngineInv c e) (hc : e.ctl = .run r)
    (ha : c.busAvailable = true) (hr : runningOk c e r) : SensorInv c e :=
  { h with
    busyAvailable := fun _ => ha
    running := fun r' hr' => by cases hc.symm.trans hr'; exact hr }

/-- What a running command may be depends on RESOLVED, INITIALIZED and the active address alone. -/
theorem runningOk_congr {c : Config} {e e' : Sensor} {r : Running} (h : runningOk c e r)
    (hr : e'.resolved = e.resolved) (hi : e'.initialized = e.initialized) (ha : e'.addr = e.addr) :
    runningOk c e' r := by
  unfold runningOk at *
  rwa [hr, hi, ha]

/-! ### The shared operations keep it -/

section
variable {c : Config} {e : Sensor}

/-- A command runs only where the bus is (R224). -/
theorem SensorInv.available {r : Running} (h : SensorInv c e) (hr : e.ctl = .run r) : c.busAvailable = true :=
  h.busyAvailable (busy_of_run hr)

/-- One more possible event leaves a possible history (R153). -/
theorem history_snoc {v : BusEvent} {l : List BusEvent} (h : ∀ v ∈ l, eventOk c v) (hv : eventOk c v) :
    ∀ w ∈ l ++ [v], eventOk c w := by
  simpa [or_imp, forall_and, hv] using h

/-- A write to a candidate, of a length the buffers allow, is a possible event (R77, R151). -/
theorem EngineInv.after_busWrite {a : Addr} {bytes : List Byte} {release : Bool} (h : EngineInv c e) (d : BusDraw)
    (ha : candidate c a) (h1 : 1 ≤ bytes.length) (h256 : bytes.length ≤ 256)
    (hheld : release = false → bytes.length = 1) :
    EngineInv c (busWrite a bytes release d e).2 :=
  { h with history := history_snoc h.history ⟨ha, h1, h256, min_le_right _ _, hheld⟩ }

/-- A read from a candidate is a possible event and fills S_RXBUF within its entries (R77, R151, R152). -/
theorem EngineInv.after_busRead {a : Addr} {n : Nat} (h : EngineInv c e) (d : BusDraw)
    (ha : candidate c a) (h1 : 1 ≤ n) (h256 : n ≤ 256) :
    EngineInv c (busRead a n d e).2 :=
  have hle : (d.data.take n).length ≤ n := List.length_take_le _ _
  { h with
    rxOk := ⟨Memory.writeBytes_wf h.rxOk.1 _ _, Memory.writeBytes_below h.rxOk.2 (by omega)⟩
    history := history_snoc h.history ⟨ha, h1, h256, rfl, hle⟩ }

/-- last_count takes a byte count of one transaction (R32). -/
theorem EngineInv.after_noteAccess {k : Nat} (h : EngineInv c e) (ok : Bool) (hk : k ≤ 256) :
    EngineInv c (noteAccess k ok e) :=
  { h with lastCountRange := fun _ hn => Option.some.inj hn ▸ hk }

/-- A register number and up to 255 bytes fill the staging buffer within its entries (R32). -/
theorem EngineInv.after_stage {payload : List Byte} (h : EngineInv c e) (reg : Byte) (hp : payload.length ≤ 255) :
    EngineInv c (stage reg payload e) :=
  { h with
    stagingOk :=
      ⟨Memory.writeBytes_wf h.stagingOk.1 _ _,
        Memory.writeBytes_below h.stagingOk.2 (by rw [List.length_cons]; omega)⟩ }

/-- `poll_n` has no bound of its own (R193). -/
theorem EngineInv.after_countPoll (h : EngineInv c e) : EngineInv c (countPoll e) := { h with }

/-- The engine's invariant is the same at every point of a command. -/
theorem EngineInv.setCtl (h : EngineInv c e) (k : Ctl) : EngineInv c { e with ctl := k } := h

/-- The address a resolution commits is a candidate, and ADDR_LOW in the degraded mode (R182). -/
theorem EngineInv.after_commitAddress {a : Addr} {nf : Bool} (h : EngineInv c e) (ha : candidate c a)
    (hnf : nf = true → a = c.addrLow) : EngineInv c (commitAddress a nf e) :=
  { h with
    running := nofun
    addrUnresolved := nofun
    addrResolved := fun _ => ha
    initializedResolved := fun _ => rfl
    notFoundLow := fun hn => ⟨rfl, hnf hn⟩ }

/-- COUNT takes the count of the last transaction, or stays (R157). -/
theorem EngineInv.after_complete (h : EngineInv c e) (code : ResultCode) : SensorInv c (complete code e) := by
  refine EngineInv.idle { h with countRange := ?_ } rfl
  cases hl : e.lastCount with
  | none => simpa [hl] using h.countRange
  | some n =>
    have hn : n ≤ 256 := h.lastCountRange n hl
    simp [hl]
    omega

/-! ### Register reads -/

/-- The held write of a register read (R158). -/
theorem EngineInv.after_regReadStart {a : Addr} {r : Byte} {n : Nat} {at' : ReadPt → Running} (h : EngineInv c e)
    (hav : c.busAvailable = true) (ha : candidate c a) (hat : ∀ q, readPtOk n q → runningOk c e (at' q))
    (d : BusDraw) : SensorInv c (regReadStart a r at' d e) :=
  ((h.after_busWrite d ha le_rfl (by simp) fun _ => rfl).setCtl _).run rfl hav
    (runningOk_congr (hat (.held _) (min_le_right _ _)) rfl rfl rfl)

/-- The read of a register read (R158). -/
theorem EngineInv.after_regReadHeld {a : Addr} {n sent : Nat} {at' : ReadPt → Running} (h : EngineInv c e)
    (hav : c.busAvailable = true) (ha : candidate c a) (hn : 1 ≤ n ∧ n ≤ 256)
    (hat : ∀ q, readPtOk n q → runningOk c e (at' q)) (hsent : sent ≤ 1) (d : BusDraw) :
    SensorInv c (regReadHeld a n sent at' d e) :=
  ((h.after_busRead d ha hn.1 hn.2).setCtl _).run rfl hav
    (runningOk_congr (hat (.got _ _) ⟨hsent, List.length_take_le _ _⟩) rfl rfl rfl)

/-! ### The shared runs -/

/-- `resolve` keeps the invariant if what it goes on with does (R180). -/
theorem EngineInv.after_runResolve {at' : ResolvePt → Running} {return' : Addr → Bool → Sensor → Sensor}
    {p : ResolvePt} (h : EngineInv c e) (hav : c.busAvailable = true)
    (hat : ∀ q, resolvePtOk q → runningOk c e (at' q)) (hp : resolvePtOk p)
    (hret : ∀ a nf k ok, k ≤ 1 → candidate c a → (nf = true → a = c.addrLow) →
      SensorInv c (return' a nf (noteAccess k ok e)))
    (d : BusDraw) : SensorInv c (runResolve c at' return' p d e) := by
  have high : candidate c c.addrHigh := .inl rfl
  have low : candidate c c.addrLow := .inr rfl
  have hathigh : ∀ q, readPtOk 1 q → runningOk c e (at' (.high q)) := fun q hq => hat (.high q) hq
  have hatlow : ∀ q, readPtOk 1 q → runningOk c e (at' (.low q)) := fun q hq => hat (.low q) hq
  rcases p with (_ | sent | ⟨sent, received⟩) | (_ | sent | ⟨sent, received⟩)
  · exact h.after_regReadStart hav high hathigh d
  · exact h.after_regReadHeld hav high (by decide) hathigh hp d
  · have hk : received ≤ 1 := hp.2
    unfold runResolve
    dsimp only
    split
    · exact hret _ _ _ _ hk high nofun
    · exact (h.after_noteAccess _ (by omega)).after_regReadStart hav low
        (fun q hq => runningOk_congr (hatlow q hq) rfl rfl rfl) d
  · exact h.after_regReadStart hav low hatlow d
  · exact h.after_regReadHeld hav low (by decide) hatlow hp d
  · exact hret _ _ _ _ hp.2 low fun _ => rfl

/-- `await` keeps the invariant if both its ways out do (R193). -/
theorem EngineInv.after_runAwait {at' : ReadPt → Running} {ready timeout : Sensor → Sensor} {p : ReadPt}
    (h : EngineInv c e) (hav : c.busAvailable = true) (ha : candidate c e.addr)
    (hat : ∀ q, readPtOk 1 q → runningOk c e (at' q)) (hp : readPtOk 1 p)
    (hready : ∀ k ok, k ≤ 1 → SensorInv c (ready (countPoll (noteAccess k ok e))))
    (htimeout : ∀ k ok, k ≤ 1 → SensorInv c (timeout (countPoll (noteAccess k ok e))))
    (d : BusDraw) : SensorInv c (runAwait c at' ready timeout p d e) := by
  rcases p with _ | sent | ⟨sent, received⟩
  · exact h.after_regReadStart hav ha hat d
  · exact h.after_regReadHeld hav ha (by decide) hat hp d
  · have hk : received ≤ 1 := hp.2
    unfold runAwait
    dsimp only
    split
    · exact hready _ _ hk
    · split
      · exact htimeout _ _ hk
      · exact (h.after_noteAccess _ (by omega)).after_countPoll.after_regReadStart hav ha
          (fun q hq => runningOk_congr (hat q hq) rfl rfl rfl) d

/-! ### Discovery -/

/-- The locals INIT carries from write to write: the address is a candidate, the degraded mode's is ADDR_LOW, and without a
resolution of INIT's own it is the active one (R180, R182, R185). -/
structure InitLocals (c : Config) (e : Sensor) (ran : Bool) (a : Addr) (nf : Bool) : Prop where
  uninitialized : e.initialized = false
  address : candidate c a
  notFound : nf = true → a = c.addrLow
  resolved : e.resolved = !ran
  kept : ran = false → a = e.addr ∧ nf = false

/-- INIT's complete step (R185). -/
theorem EngineInv.after_completeInit {ran : Bool} {a : Addr} {nf : Bool} (h : EngineInv c e)
    (hl : InitLocals c e ran a nf) : SensorInv c (completeInit ran a nf e) := by
  have setInitialized : ∀ {e' : Sensor}, EngineInv c e' → e'.resolved = true →
      EngineInv c { e' with initialized := true } :=
    fun h' hr => { h' with running := nofun, initializedResolved := fun _ => hr }
  cases ran with
  | false => exact (setInitialized h hl.resolved).after_complete _
  | true => exact (setInitialized (h.after_commitAddress hl.address hl.notFound) rfl).after_complete _

/-- INIT's next configuration write or its complete step (R185). -/
theorem EngineInv.after_initNextWrite {ran : Bool} {a : Addr} {nf : Bool} (h : EngineInv c e)
    (hav : c.busAvailable = true) (hl : InitLocals c e ran a nf) (writes : List (Byte × Byte)) (d : BusDraw) :
    SensorInv c (initNextWrite ran a nf writes d e) := by
  obtain _ | ⟨⟨r, v⟩, rest⟩ := writes
  · exact h.after_completeInit hl
  · have hlen : ((stage r [v] e).staging.readBytes 2).length = 2 := Memory.readBytes_length _ _
    have hw := (h.after_stage (payload := [v]) r (by simp)).after_busWrite (release := true) d hl.address
      (by rw [hlen]; omega) (by rw [hlen]; omega) nofun
    refine (hw.setCtl _).run rfl hav ⟨hl.uninitialized, ?_, hl.address, hl.notFound, hl.resolved, hl.kept⟩
    exact (min_le_right _ _).trans hlen.le

/-- A SENSOR step of RESOLVE_ADDR (R180) keeps the invariant. -/
theorem SensorInv.after_runResolveAddr {p : ResolvePt} (h : SensorInv c e) (hc : e.ctl = .run (.resolveAddr p))
    (d : BusDraw) : SensorInv c (runResolveAddr c p d e) := by
  obtain ⟨hres, hp⟩ := h.running _ hc
  have hat : ∀ q, resolvePtOk q → runningOk c e (.resolveAddr q) := fun q hq => ⟨hres, hq⟩
  exact h.engine.after_runResolve (h.available hc) hat hp
    (fun a nf k ok hk ha hnf =>
      ((h.engine.after_noteAccess ok (by omega)).after_commitAddress ha hnf).after_complete _) d

/-- A SENSOR step of INIT (R185) keeps the invariant. -/
theorem SensorInv.after_runInit {p : InitPt} (h : SensorInv c e) (hc : e.ctl = .run (.init p)) (d : BusDraw) :
    SensorInv c (runInit c p d e) := by
  have hav := h.available hc
  have hrun := h.running _ hc
  have resolve : e.initialized = false → e.resolved = false → ∀ q, resolvePtOk q →
      SensorInv c (runResolve c (fun p => .init (.resolving p))
        (fun a nf e => initNextWrite true a nf c.initWrites d e) q d e) := by
    intro hi hr q hq
    have hat : ∀ q, resolvePtOk q → runningOk c e (.init (.resolving q)) := fun q hq => ⟨hi, hr, hq⟩
    refine h.engine.after_runResolve hav hat hq (fun a nf k ok hk ha hnf => ?_) d
    have hl : InitLocals c (noteAccess k ok e) true a nf := ⟨hi, ha, hnf, hr, nofun⟩
    exact (h.engine.after_noteAccess ok (by omega)).after_initNextWrite hav hl _ d
  cases p with
  | start =>
    unfold runInit
    dsimp only
    split
    · rename_i hr
      have hl : InitLocals c e false e.addr false :=
        ⟨hrun, h.addrResolved hr, nofun, hr, fun _ => ⟨rfl, rfl⟩⟩
      exact h.engine.after_initNextWrite hav hl _ d
    · rename_i hr
      exact resolve hrun (by simpa using hr) (.high .start) trivial
  | resolving p =>
    obtain ⟨hi, hr, hp⟩ := hrun
    exact resolve hi hr p hp
  | wrote ran a nf rest sent =>
    obtain ⟨hi, hsent, ha, hnf, hr, hkept⟩ := hrun
    exact (h.engine.after_noteAccess _ (by omega)).after_initNextWrite hav ⟨hi, ha, hnf, hr, hkept⟩ _ d

/-! ### Register access -/

/-- A SENSOR step of READ_REG (R160) keeps the invariant. -/
theorem SensorInv.after_runReadReg {reg : Byte} {len : Half} {p : ReadPt} (h : SensorInv c e)
    (hc : e.ctl = .run (.readReg reg len p)) (d : BusDraw) : SensorInv c (runReadReg reg len p d e) := by
  obtain ⟨hres, h1, h256, hp⟩ := h.running _ hc
  have ha := h.addrResolved hres
  have hat : ∀ q, readPtOk len.toNat q → runningOk c e (.readReg reg len q) := fun q hq => ⟨hres, h1, h256, hq⟩
  cases p with
  | start => exact h.engine.after_regReadStart (h.available hc) ha hat d
  | held sent => exact h.engine.after_regReadHeld (h.available hc) ha ⟨h1, h256⟩ hat hp d
  | got sent received =>
    have hk : received ≤ len.toNat := hp.2
    exact (h.engine.after_noteAccess _ (by omega)).after_complete _

/-- A SENSOR step of WRITE_REG (R170) keeps the invariant. -/
theorem SensorInv.after_runWriteReg {reg : Byte} {len : Half} {p : WritePt} (h : SensorInv c e)
    (hc : e.ctl = .run (.writeReg reg len p)) (d : BusDraw) : SensorInv c (runWriteReg reg len p d e) := by
  obtain ⟨hres, h255, hp⟩ := h.running _ hc
  cases p with
  | start =>
    have hlen : (e.staging.readBytes (1 + len.toNat)).length = 1 + len.toNat := Memory.readBytes_length _ _
    have hw := h.engine.after_busWrite (release := true) d (h.addrResolved hres) (by rw [hlen]; omega)
      (by rw [hlen]; omega) nofun
    exact (hw.setCtl _).run rfl (h.available hc) ⟨hres, h255, (min_le_right _ _).trans hlen.le⟩
  | done sent =>
    have hk : sent ≤ 1 + len.toNat := hp
    exact (h.engine.after_noteAccess _ (by omega)).after_complete _

/-! ### Sampling -/

/-- The decoded temperatures are those of R30. -/
theorem tempDecode_range (h : c.inRange = true) (raw : Byte) :
    -103 ≤ tempDecode c raw ∧ tempDecode c raw ≤ 152 := by
  obtain ⟨_, _, _, _, _, hbias⟩ := Config.fixed_of_inRange h
  unfold tempDecode
  rw [hbias]
  split <;> omega

/-- The decoded accelerations are those of R31: two bits are shifted out of a magnitude of at most 2^15. -/
theorem decode14_range (w : Half) : -8192 ≤ decode14 w ∧ decode14 w ≤ 8191 := by
  have hsign : w.getLsbD 15 = decide (2 ^ 15 ≤ w.toNat) :=
    (BitVec.msb_eq_getLsbD_last w).symm.trans (BitVec.msb_eq_decide w)
  unfold decode14
  rw [BitVec.toNat_ushiftRight, BitVec.toNat_ushiftRight, Nat.shiftRight_eq_div_pow, Nat.shiftRight_eq_div_pow]
  split
  · rename_i h
    rw [hsign, decide_eq_true_eq] at h
    have hmagnitude : (~~~w + 1).toNat ≤ 2 ^ 15 := by bv_omega
    omega
  · rename_i h
    rw [hsign, decide_eq_true_eq] at h
    omega

/-- A small value is its own 16-bit signed register (R30, R31). -/
theorem toInt_signed16 {v : Int} (hl : -32768 ≤ v) (hu : v ≤ 32767) : (signed16 v).toInt = v :=
  BitVec.toInt_ofInt_eq_self (by omega) (by omega) (by omega)

/-- A decoded axis in range joins those held back (R197). -/
theorem newAxesOk_set {new : Axes (Option Half)} (h : newAxesOk new) {v : Half} (hv : accInRange v) (axis : Axis) :
    newAxesOk (new.set (some v) axis) := by
  have hsome : ∀ w, some v = some w → accInRange w := fun w hw => Option.some.inj hw ▸ hv
  obtain ⟨hx, hy, hz⟩ := h
  cases axis with
  | x => exact ⟨hsome, hy, hz⟩
  | y => exact ⟨hx, hsome, hz⟩
  | z => exact ⟨hx, hy, hsome⟩

/-- The axis that READ_MOTION decodes, or does not, leaves what it holds back in range. -/
theorem newAxesOk_decoded {new : Axes (Option Half)} (h : newAxesOk new) (b : Bool) (w : Half) (axis : Axis) :
    newAxesOk (if b then new.set (some (signed16 (decode14 w))) axis else new) := by
  have hr := decode14_range w
  have hv : accInRange (signed16 (decode14 w)) := by
    unfold accInRange
    rwa [toInt_signed16 (by omega) (by omega)]
  split
  · exact newAxesOk_set h hv axis
  · exact h

/-- A temperature in R30's range is committed as it is. -/
theorem EngineInv.setTemp {v : Int} (h : EngineInv c e) (hv : -103 ≤ v ∧ v ≤ 152) :
    EngineInv c { e with temp16 := signed16 v } :=
  { h with running := nofun, tempRange := by rwa [toInt_signed16 (by omega) (by omega)] }

/-- A SENSOR step of READ_TEMP (R189) keeps the invariant. -/
theorem SensorInv.after_runReadTemp {p : ReadPt} (h : SensorInv c e) (hin : c.inRange = true)
    (hc : e.ctl = .run (.readTemp p)) (d : BusDraw) : SensorInv c (runReadTemp c p d e) := by
  obtain ⟨hi, hp⟩ := h.running _ hc
  have ha := h.addrResolved (h.initializedResolved hi)
  have hat : ∀ q, readPtOk 1 q → runningOk c e (.readTemp q) := fun q hq => ⟨hi, hq⟩
  cases p with
  | start => exact h.engine.after_regReadStart (h.available hc) ha hat d
  | held sent => exact h.engine.after_regReadHeld (h.available hc) ha (by decide) hat hp d
  | got sent received =>
    have hk : received ≤ 1 := hp.2
    have hn : EngineInv c (noteAccess received (readOk 1 sent received) e) := h.engine.after_noteAccess _ (by omega)
    unfold runReadTemp
    dsimp only
    split
    · exact (hn.setTemp (tempDecode_range hin _)).after_complete _
    · exact hn.after_complete _

/-- A SENSOR step of AWAIT_DRDY (R193) keeps the invariant. -/
theorem SensorInv.after_runAwaitDrdy {p : ReadPt} (h : SensorInv c e) (hc : e.ctl = .run (.awaitDrdy p))
    (d : BusDraw) : SensorInv c (runAwaitDrdy c p d e) := by
  obtain ⟨hi, hp⟩ := h.running _ hc
  have polled : ∀ k ok, k ≤ 1 → EngineInv c (countPoll (noteAccess k ok e)) :=
    fun k ok hk => (h.engine.after_noteAccess ok (by omega)).after_countPoll
  have hat : ∀ q, readPtOk 1 q → runningOk c e (.awaitDrdy q) := fun q hq => ⟨hi, hq⟩
  exact h.engine.after_runAwait (ready := fun e => complete (shortOrOk e.shortLatch) e) (h.available hc)
    (h.addrResolved (h.initializedResolved hi)) hat hp (fun k ok hk => (polled k ok hk).after_complete _)
    (fun k ok hk => (polled k ok hk).after_complete _) d

/-- READ_MOTION's complete step (R197, R199). -/
theorem EngineInv.after_completeMotion {new : Axes (Option Half)} (h : EngineInv c e) (hnew : newAxesOk new) :
    SensorInv c (completeMotion new e) := by
  have getD : ∀ {o : Option Half} {v : Half}, (∀ w, o = some w → accInRange w) → accInRange v →
      accInRange (o.getD v) := by
    intro o v ho hv
    cases o with
    | none => exact hv
    | some w => exact ho w rfl
  obtain ⟨hx, hy, hz⟩ := hnew
  obtain ⟨ax, ay, az⟩ := h.accRange
  have hacc : EngineInv c { e with acc16 := ⟨new.x.getD e.acc16.x, new.y.getD e.acc16.y, new.z.getD e.acc16.z⟩ } :=
    { h with running := nofun, accRange := ⟨getD hx ax, getD hy ay, getD hz az⟩ }
  exact hacc.after_complete _

/-- The first step of an axis (R198). -/
theorem EngineInv.after_motionAxis {axis : Axis} {new : Axes (Option Half)} (h : EngineInv c e)
    (hav : c.busAvailable = true) (hi : e.initialized = true) (hnew : newAxesOk new) (d : BusDraw) :
    SensorInv c (motionAxis c axis new d e) := by
  have hat : ∀ q, readPtOk 1 q → runningOk c e (.readMotion (.low axis new q)) := fun q hq => ⟨hi, hq, hnew⟩
  exact h.after_regReadStart hav (h.addrResolved (h.initializedResolved hi)) hat d

/-- A SENSOR step of READ_MOTION (R197) keeps the invariant. -/
theorem SensorInv.after_runReadMotion {p : MotionPt} (h : SensorInv c e) (hc : e.ctl = .run (.readMotion p))
    (d : BusDraw) : SensorInv c (runReadMotion c p d e) := by
  have hav := h.available hc
  have hrun := h.running _ hc
  have noted : ∀ k ok, k ≤ 1 → EngineInv c (noteAccess k ok e) := fun k ok hk => h.engine.after_noteAccess ok (by omega)
  rcases p with p | ⟨axis, new, p⟩ | ⟨axis, okL, lo, new, p⟩
  · obtain ⟨hi, hp⟩ := hrun
    have hat : ∀ q, readPtOk 1 q → runningOk c e (.readMotion (.await q)) := fun q hq => ⟨hi, hq⟩
    have hnone : newAxesOk noAxes := by simp [newAxesOk, noAxes]
    exact h.engine.after_runAwait hav (h.addrResolved (h.initializedResolved hi)) hat hp
      (fun k ok hk => (noted k ok hk).after_countPoll.after_motionAxis hav hi hnone d)
      (fun k ok hk => (noted k ok hk).after_countPoll.after_complete _) d
  · obtain ⟨hi, hp, hnew⟩ := hrun
    have ha := h.addrResolved (h.initializedResolved hi)
    have hat : ∀ q, readPtOk 1 q → runningOk c e (.readMotion (.low axis new q)) := fun q hq => ⟨hi, hq, hnew⟩
    cases p with
    | start => exact h.engine.after_motionAxis hav hi hnew d
    | held sent => exact h.engine.after_regReadHeld hav ha (by decide) hat hp d
    | got sent received =>
      let e' := noteAccess received (readOk 1 sent received) e
      have hat' : ∀ q, readPtOk 1 q →
          runningOk c e' (.readMotion (.high axis (readOk 1 sent received) (rx0 e') new q)) :=
        fun q hq => ⟨hi, hq, hnew⟩
      exact (noted _ _ hp.2).after_regReadStart hav ha hat' d
  · obtain ⟨hi, hp, hnew⟩ := hrun
    have ha := h.addrResolved (h.initializedResolved hi)
    have hat : ∀ q, readPtOk 1 q → runningOk c e (.readMotion (.high axis okL lo new q)) :=
      fun q hq => ⟨hi, hq, hnew⟩
    cases p with
    | start => exact h.engine.after_regReadStart hav ha hat d
    | held sent => exact h.engine.after_regReadHeld hav ha (by decide) hat hp d
    | got sent received =>
      have hn := noted received (readOk 1 sent received) hp.2
      unfold runReadMotion
      dsimp only
      split
      · exact hn.after_motionAxis hav hi (newAxesOk_decoded hnew _ _ _) d
      · exact hn.after_completeMotion (newAxesOk_decoded hnew _ _ _)

/-- Every SENSOR step keeps the sensor engine's invariant. -/
theorem SensorInv.after_stepSensor (h : SensorInv c e) (hin : c.inRange = true) (d : BusDraw) :
    SensorInv c (stepSensor c d e) := by
  unfold stepSensor
  split
  · exact h
  · exact h.after_runReadReg ‹_› d
  · exact h.after_runWriteReg ‹_› d
  · exact h.after_runResolveAddr ‹_› d
  · exact h.after_runInit ‹_› d
  · exact h.after_runReadTemp hin ‹_› d
  · exact h.after_runAwaitDrdy ‹_› d
  · exact h.after_runReadMotion ‹_› d

end

/-! ## The LED engine's invariant -/

section
variable {c : Config} {l : Led}

/-- R9's lower bounds on MAX_PATTERN and BASE_DELAY. -/
theorem Config.pos_of_inRange (hin : c.inRange = true) : 1 ≤ c.maxPattern ∧ 1 ≤ c.baseDelay := by
  obtain ⟨⟨hmax, hdelay, -⟩, -⟩ := (Config.inRange_iff c).1 hin
  exact ⟨hmax, hdelay⟩

/-- `period_of` of a pattern in range is at least one tick, since BASE_DELAY is (R9, R129). -/
theorem periodOf_pos (hin : c.inRange = true) (hp : l.pattern.toNat < c.maxPattern) :
    1 ≤ (periodOf c l.pattern).toNat := by
  have hdelay := (Config.pos_of_inRange hin).2
  rw [periodOf_toNat hin hp]
  exact Nat.mul_pos hdelay (Nat.succ_pos _)

/-- The pattern counter wraps before MAX_PATTERN (R35, R126). -/
theorem nextPattern_range (hin : c.inRange = true) {p : Word} (hp : p.toNat < c.maxPattern) :
    (nextPattern c p).toNat < c.maxPattern := by
  have hmax := maxPattern_bound hin
  unfold nextPattern
  split
  · exact Nat.zero_lt_of_lt hp
  · rw [BitVec.toNat_add_of_lt] <;> simp <;> omega

/-- The invariant of a running sequencer: the clauses about IDLE and FATAL are empty. -/
theorem LedInv.of_running (hs : l.state = .running) (hirq : c.irqAvailable = true)
    (hpat : l.pattern.toNat < c.maxPattern) (hticks : 1 ≤ l.ticks.toNat ∧ l.ticks.toNat ≤ l.period.toNat)
    (hperiod : ∃ p < c.maxPattern, l.period.toNat = c.baseDelay * (p + 1)) (hlevels : ledLevels l)
    (hres : l.lresult ≠ .short ∧ l.lresult ≠ .arg ∧ l.lresult ≠ .timeout ∧ l.lresult ≠ .nodev) : LedInv c l where
  patternRange := hpat
  idleDark := fun h => by simp [hs] at h
  fatalDark := fun h => by simp [hs] at h
  runningAvailable := fun _ => hirq
  ticksRange := fun _ => hticks
  periodLatched := fun _ => hperiod
  levels := fun _ => hlevels
  lresultRange := hres

/-- A blink cycle begins with a full period of the pattern sampled for it (R130). -/
theorem LedInv.of_startCycle (hin : c.inRange = true) (hs : l.state = .running) (hirq : c.irqAvailable = true)
    (hpat : l.pattern.toNat < c.maxPattern) (hA : l.ledA = false)
    (hres : l.lresult ≠ .short ∧ l.lresult ≠ .arg ∧ l.lresult ≠ .timeout ∧ l.lresult ≠ .nodev) :
    LedInv c (startCycle c l) :=
  .of_running hs hirq hpat ⟨periodOf_pos hin hpat, le_rfl⟩ ⟨_, hpat, periodOf_toNat hin hpat⟩ hA hres

/-- A result that START_LED or an illegal word gives is in the LED engine's range (R220). -/
theorem LedInv.setResult (h : LedInv c l) {code : ResultCode}
    (hc : code = .illegal ∨ code = .seq ∨ code = .fatal) : LedInv c { l with lresult := code } :=
  { h with lresultRange := by rcases hc with rfl | rfl | rfl <;> simp }

/-- One tick of a running sequencer (R131, R132). -/
theorem LedInv.after_tickLed (h : LedInv c l) (hin : c.inRange = true) (hs : l.state = .running) :
    LedInv c (tickLed c l) := by
  have hirq := h.runningAvailable hs
  obtain ⟨hlow, hhigh⟩ := h.ticksRange hs
  have hperiod := h.periodLatched hs
  have hlast := toNat_sub_one hlow
  unfold tickLed
  dsimp only
  split
  · split
    · exact LedInv.of_startCycle hin hs hirq h.patternRange rfl h.lresultRange
    · exact .of_running hs hirq h.patternRange ⟨hlow.trans hhigh, le_rfl⟩ hperiod ⟨rfl, rfl⟩ h.lresultRange
  · rename_i hmore
    have hpos : (l.ticks - 1).toNat ≠ 0 := fun h0 => hmore (BitVec.eq_of_toNat_eq h0)
    have hticks : 1 ≤ (l.ticks - 1).toNat ∧ (l.ticks - 1).toNat ≤ l.period.toNat := by omega
    exact .of_running hs hirq h.patternRange hticks hperiod (h.levels hs) h.lresultRange

/-- A BLINK tick keeps the invariant: only a running sequencer ticks (R131). -/
theorem LedInv.after_blinkTick {s : State} (h : LedInv s.config s.led) (hin : s.config.inRange = true) :
    LedInv s.config (blinkTick s).led := by
  unfold blinkTick
  split
  · exact h.after_tickLed hin ‹_›
  · exact h
  · exact h

/-- Everything a BTN step can do to the LED engine: sample the button, and while RUNNING count (R123 to R126). -/
theorem btnStep_led_cases (b : Bool) (s : State) :
    (btnStep b s).led = { s.led with btnQ := b } ∨
    (s.led.state = .running ∧ ∃ debounce pattern,
      (pattern = s.led.pattern ∨ pattern = nextPattern s.config s.led.pattern) ∧
      (btnStep b s).led = { s.led with btnQ := b, debounce := debounce, pattern := pattern }) := by
  unfold btnStep
  dsimp only
  split
  · rename_i hedge
    refine .inr ⟨hedge.2, ?_⟩
    unfold pressHandler
    dsimp only
    split
    · exact ⟨_, _, .inr rfl, rfl⟩
    · exact ⟨_, _, .inl rfl, rfl⟩
  · exact .inl rfl

/-- A BTN step keeps the invariant: a dark engine counts nothing (R123). -/
theorem LedInv.after_btnStep {s : State} (h : LedInv s.config s.led) (hin : s.config.inRange = true) (b : Bool) :
    LedInv s.config (btnStep b s).led := by
  rcases btnStep_led_cases b s with hled | ⟨hs, debounce, pattern, hpat, hled⟩
  · rw [hled]
    exact { h with }
  · have hrange : pattern.toNat < s.config.maxPattern := by
      rcases hpat with rfl | rfl
      · exact h.patternRange
      · exact nextPattern_range hin h.patternRange
    rw [hled]
    exact .of_running hs (h.runningAvailable hs) hrange (h.ticksRange hs) (h.periodLatched hs) (h.levels hs)
      h.lresultRange

end

/-! ## What HOST's step can do to the engines -/

/-- What HOST's step can do to the sensor engine (R25, R73, R155, R224). -/
inductive HostToSensor (c : Config) (e : Sensor) : Sensor → Prop
  | kept : HostToSensor c e e
  | txbuf (i : Nat) (v : Byte) (hi : i < 256) : HostToSensor c e { e with txbuf := e.txbuf.write i v }
  | dropped (hb : e.busy = true) : HostToSensor c e { e with ovr := true }
  | rejected (hb : e.busy = false) (code : ResultCode) : HostToSensor c e { e with ovr := false, result := code }
  | fatal (hb : e.busy = false) (ha : c.busAvailable = false) :
    HostToSensor c e { e with ovr := false, result := .fatal, fatalReported := true }
  | accepted (hb : e.busy = false) (ha : c.busAvailable = true) (r : Running) (st : Memory)
    (hst : bufferOk e.staging → bufferOk st) (hr : runningOk c e r) :
    HostToSensor c e
      { e with staging := st, ovr := false, shortLatch := false, pollN := 0, lastCount := none, ctl := .run r }

/-- What HOST's step can do to the LED engine (R106, R121). -/
inductive HostToLed (c : Config) (l : Led) : Led → Prop
  | kept : HostToLed c l l
  | answered (code : ResultCode) (hc : code = .illegal ∨ code = .seq ∨ code = .fatal) :
    HostToLed c l { l with lresult := code }
  | started (hs : l.state = .idle) (hi : c.irqAvailable = true) :
    HostToLed c l { startCycle c l with state := .running, lresult := .ok }
  | failed (hs : l.state = .idle) (hi : c.irqAvailable = false) :
    HostToLed c l { l with state := .fatal, lresult := .fatal }

/-- What a step of HOST does to the block. -/
structure HostEffect (s t : State) : Prop where
  config : t.config = s.config
  sensor : HostToSensor s.config s.sensor t.sensor
  led : HostToLed s.config s.led t.led

/-- A word that spells no command is an answer of its engine's (R106). -/
theorem illegalCommand_effect (p : Port) (s : State) : HostEffect s (illegalCommand p s) := by
  rcases illegalCommand_cases p s with ⟨l, rfl, ht⟩ | ⟨hb, ht⟩ | ⟨hb, ht⟩ <;> rw [ht]
  · exact ⟨rfl, .kept, .answered _ (.inl rfl)⟩
  · exact ⟨rfl, .dropped hb, .kept⟩
  · exact ⟨rfl, .rejected hb _, .kept⟩

/-- A command's write touches its own engine alone (R121, R136, R155). -/
theorem exec_effect {i : Instr} {s t : State} (hin : s.config.inRange = true) (h : exec i s = .next t) :
    HostEffect s t := by
  by_cases hi : i = .startLed
  · subst hi
    obtain ⟨hsensor, hconfig, hcases⟩ := execStartLed_cases h
    refine ⟨hconfig, hsensor ▸ .kept, ?_⟩
    rcases hcases with ⟨hs, hirq, ht, -⟩ | ⟨hs, hirq, ht, -⟩ | ⟨-, ht, -⟩ | ⟨-, ht, -⟩ <;> rw [ht]
    · exact .started hs hirq
    · exact .failed hs hirq
    · exact .answered _ (.inr (.inl rfl))
    · exact .answered _ (.inr (.inr rfl))
  · rcases exec_sensor_cases hi hin h with
      ⟨hb, rfl⟩ | ⟨hb, ⟨code, -, rfl⟩ | ⟨ha, rfl⟩ | ⟨ha, r, st, hacc, rfl⟩⟩
    · exact ⟨rfl, .dropped hb, .kept⟩
    · exact ⟨rfl, .rejected hb code, .kept⟩
    · exact ⟨rfl, .fatal hb ha, .kept⟩
    · exact ⟨rfl, .accepted hb ha r st hacc.st hacc.ok, .kept⟩

/-- HOST's step has one of these effects, whatever access is next (R72 to R76). -/
theorem hostStep_effect {d : Byte} {s t : State} (hin : s.config.inRange = true) (h : hostStep d s = .next t) :
    HostEffect s t := by
  rcases hostStep_cases d s t h with
    ⟨hs, hl, -, hc⟩ | ⟨i, v, hi, hs, hl, -, hc⟩ | ⟨p, w, ops, i, -, -, he⟩ | ⟨p, ops, rfl⟩
  · exact ⟨hc, hs ▸ .kept, hl ▸ .kept⟩
  · exact ⟨hc, hs ▸ .txbuf i v hi, hl ▸ .kept⟩
  · obtain ⟨hc, hs, hl⟩ := exec_effect (s := { s with program := ops }) hin he
    exact ⟨hc, hs, hl⟩
  · obtain ⟨hc, hs, hl⟩ := illegalCommand_effect p { s with program := ops }
    exact ⟨hc, hs, hl⟩

/-- HOST's step keeps the sensor engine's invariant; an accepted command starts as a possible one (R222). -/
theorem SensorInv.after_host {c : Config} {e e' : Sensor} (h : SensorInv c e) (he : HostToSensor c e e') :
    SensorInv c e' := by
  cases he with
  | kept => exact h
  | txbuf i v hi => exact { h with txOk := ⟨Memory.write_wf h.txOk.1 i v, Memory.write_below h.txOk.2 hi v⟩ }
  | dropped => exact { h with }
  | rejected => exact { h with }
  | fatal hb ha => exact { h with reportedUnavailable := fun _ => ha }
  | accepted hb ha r st hst hr =>
    have hstart : EngineInv c { e with staging := st, lastCount := none } :=
      { h.engine with stagingOk := hst h.stagingOk, lastCountRange := nofun }
    exact EngineInv.run (r := r) { hstart with } rfl ha (runningOk_congr hr rfl rfl rfl)

/-- HOST's step keeps the LED engine's invariant: START_LED leaves IDLE with nothing lit (R120, R121). -/
theorem LedInv.after_host {c : Config} {l l' : Led} (h : LedInv c l) (hin : c.inRange = true)
    (hl : HostToLed c l l') : LedInv c l' := by
  cases hl with
  | kept => exact h
  | answered code hc => exact h.setResult hc
  | started hs hi =>
    obtain ⟨hA, -⟩ := h.idleDark hs
    exact LedInv.of_startCycle (l := { l with state := .running, lresult := .ok }) hin rfl hi h.patternRange hA
      (by simp)
  | failed hs hi =>
    exact
      { patternRange := h.patternRange
        idleDark := nofun
        fatalDark := fun _ => ⟨h.idleDark hs, hi⟩
        runningAvailable := nofun
        ticksRange := nofun
        periodLatched := nofun
        levels := nofun
        lresultRange := by simp }

/-! ## The machine's invariant -/

/-- A buffer of drawn bytes is canonical and has 256 entries (R50). -/
theorem bufferOk_drawn {size : Nat} (h : size = 256) (bytes : List Byte) : bufferOk (Memory.drawn size bytes) :=
  ⟨Memory.drawn_wf _ _, h ▸ Memory.drawn_below _ _⟩

/-- The sensor engine after a reset (R50): nothing is resolved, nothing runs, and the history is as before. -/
theorem sensorInv_afterReset {c : Config} {tx rx staging : Memory} {history : List BusEvent} (htx : bufferOk tx)
    (hrx : bufferOk rx) (hstaging : bufferOk staging) (hh : ∀ v ∈ history, eventOk c v) :
    SensorInv c (Sensor.afterReset tx rx staging history) where
  txOk := htx
  rxOk := hrx
  stagingOk := hstaging
  addrUnresolved := fun _ => rfl
  addrResolved := nofun
  initializedResolved := nofun
  notFoundLow := nofun
  countRange := by simp [Sensor.afterReset]
  lastCountRange := nofun
  tempRange := by simp [Sensor.afterReset]
  accRange := by simp [Sensor.afterReset, accInRange]
  busyAvailable := nofun
  reportedUnavailable := nofun
  running := nofun
  history := hh

/-- The LED engine after a reset is dark (R50). -/
theorem ledInv_afterReset {c : Config} (hin : c.inRange = true) : LedInv c Led.afterReset where
  patternRange := (Config.pos_of_inRange hin).1
  idleDark := fun _ => ⟨rfl, rfl, rfl, rfl, rfl, rfl, rfl⟩
  fatalDark := nofun
  runningAvailable := nofun
  ticksRange := nofun
  periodLatched := nofun
  levels := nofun
  lresultRange := by simp [Led.afterReset]

/-- A reset meets the invariant whatever it resets, if the history kept is possible (R250). -/
theorem inv_resetBlock (tx rx staging : List Byte) {s : State} (hin : s.config.inRange = true)
    (hh : ∀ v ∈ s.sensor.busHistory, eventOk s.config v) : Inv (resetBlock tx rx staging s) := by
  obtain ⟨hstaging, -, hrx, -⟩ := Config.fixed_of_inRange hin
  exact ⟨hin, sensorInv_afterReset (bufferOk_drawn rfl _) (bufferOk_drawn hrx _) (bufferOk_drawn hstaging _) hh,
    ledInv_afterReset hin⟩

/-- Settles O51: the reset state is the state a reset step leaves when it draws no byte. -/
theorem resetMeetsTheInvariants : Obligations.ResetMeetsTheInvariants :=
  ⟨inv_resetBlock [] [] [] (s := State.reset) (by decide) nofun, fun _ tx rx st => inv_resetBlock tx rx st⟩

/-- The invariant does not speak of the schedule. -/
theorem Inv.setSchedule {s : State} (h : Inv s) (rest : List AgentStep) : Inv { s with schedule := rest } :=
  ⟨h.configOk, h.sensor, h.led⟩

/-- Every agent's step keeps the invariant. -/
theorem Inv.after_agentStep {a : AgentStep} {s t : State} (h : Inv s) (ht : agentStep a s = .next t) : Inv t := by
  obtain ⟨hin, hs, hl⟩ := h
  cases a with
  | host d =>
    obtain ⟨hconfig, hsensor, hled⟩ := hostStep_effect hin ht
    exact ⟨hconfig ▸ hin, hconfig ▸ hs.after_host hsensor, hconfig ▸ hl.after_host hin hled⟩
  | sensor d =>
    cases ht
    exact ⟨hin, hs.after_stepSensor hin d, hl⟩
  | btn b =>
    cases ht
    obtain ⟨hconfig, hsensor, -⟩ := btnStep_frame b s
    exact ⟨hconfig ▸ hin, by rwa [hconfig, hsensor], hconfig ▸ hl.after_btnStep hin b⟩
  | blink =>
    cases ht
    obtain ⟨hconfig, hsensor, -⟩ := blinkTick_frame s
    exact ⟨hconfig ▸ hin, by rwa [hconfig, hsensor], hconfig ▸ hl.after_blinkTick hin⟩
  | reset tx rx st =>
    cases ht
    exact inv_resetBlock tx rx st hin hs.history

/-- Settles O50: a step is no step or one agent's, and each agent's keeps the invariant. -/
theorem everyStepKeepsTheInvariants : Obligations.EveryStepKeepsTheInvariants := by
  intro s t h ht
  obtain ⟨-, ⟨-, rfl⟩ | ⟨a, rest, -, ha⟩⟩ := step_next_cases ht
  · exact h
  · exact (h.setSchedule rest).after_agentStep ha

/-! ## What a step leaves of the sensor engine -/

/-- With a turn on the schedule, a step is that agent's step (R84). -/
theorem agentStep_of_step {s t : State} {a : AgentStep} {rest : List AgentStep} (hs : s.schedule = a :: rest)
    (h : step s = .next t) : s.config.inRange = true ∧ agentStep a { s with schedule := rest } = .next t := by
  obtain ⟨hin, ⟨hnil, -⟩ | ⟨a', rest', hs', ha⟩⟩ := step_next_cases h
  · rw [hnil] at hs
    cases hs
  · cases hs.symm.trans hs'
    exact ⟨hin, ha⟩

/-- While BUSY, HOST can only write S_TXBUF and set OVR (R25). -/
theorem HostToSensor.of_busy {c : Config} {e e' : Sensor} (h : HostToSensor c e e') (hb : e.busy = true) :
    e' = { e with txbuf := e'.txbuf, ovr := e'.ovr } := by
  cases h with
  | kept => rfl
  | txbuf => rfl
  | dropped => rfl
  | rejected hidle | fatal hidle | accepted hidle =>
    rw [hidle] at hb
    cases hb

/-- Settles O24, agent by agent: BTN and BLINK do not touch the sensor engine. -/
theorem otherAgentsLeaveTheRunningCommand : Obligations.OtherAgentsLeaveTheRunningCommand := by
  intro s t a rest hs hsensor hreset hb h
  obtain ⟨hin, ha⟩ := agentStep_of_step hs h
  cases a with
  | host d => exact (hostStep_effect (s := { s with schedule := rest }) hin ha).sensor.of_busy hb
  | sensor d => exact absurd rfl (hsensor d)
  | btn b =>
    cases ha
    obtain ⟨-, hkept, -⟩ := btnStep_frame b { s with schedule := rest }
    rw [hkept]
  | blink =>
    cases ha
    obtain ⟨-, hkept, -⟩ := blinkTick_frame { s with schedule := rest }
    rw [hkept]
  | reset tx rx st => exact absurd rfl (hreset tx rx st)

/-- What only a reset clears (R26, R183, R253). -/
structure FlagsKept (e e' : Sensor) : Prop where
  resolved : e.resolved = true → e'.resolved = true ∧ e'.addr = e.addr
  initialized : e.initialized = true → e'.initialized = true
  devNotFound : e.devNotFound = true → e'.devNotFound = true
  fatalReported : e.fatalReported = true → e'.fatalReported = true

theorem FlagsKept.refl (e : Sensor) : FlagsKept e e := ⟨fun h => ⟨h, rfl⟩, id, id, id⟩

/-- HOST sets `fatal_reported` and clears none of them. -/
theorem HostToSensor.flagsKept {c : Config} {e e' : Sensor} (h : HostToSensor c e e') : FlagsKept e e' := by
  cases h with
  | fatal => exact ⟨fun h => ⟨h, rfl⟩, id, id, fun _ => rfl⟩
  | _ => exact ⟨fun h => ⟨h, rfl⟩, id, id, id⟩

/-- A step after which the command still runs commits nothing (R157). -/
theorem StepsOn.flagsKept {c : Config} {e e' : Sensor} (h : StepsOn c e e') : FlagsKept e e' where
  resolved hr := ⟨h.resolved.trans hr, h.addr⟩
  initialized hi := h.initialized.trans hi
  devNotFound hd := h.devNotFound.trans hd
  fatalReported hf := h.fatalReported.trans hf

/-- A command that can commit an address runs only while none is active (R180, R185, R222). -/
theorem unresolved_of_mayResolve {c : Config} {e : Sensor} {r : Running} (hm : mayResolve r)
    (hr : runningOk c e r) : e.resolved = false := by
  match r, hm with
  | .resolveAddr _, _ => exact hr.1
  | .init (.resolving _), _ => exact hr.2.1
  | .init (.wrote true _ _ _ _), _ =>
    obtain ⟨-, -, -, -, hres, -⟩ := hr
    exact hres

/-- A complete step commits an address only if none was active, and then DEV_NOT_FOUND was 0 too. -/
theorem Completes.flagsKept {c : Config} {e e' : Sensor} (h : Completes e e') (hinv : SensorInv c e) :
    FlagsKept e e' := by
  rcases h.addr with ⟨hres, haddr, hdnf⟩ | ⟨-, r, hc, hm⟩
  · exact ⟨fun hr => ⟨hres.trans hr, haddr⟩, h.initialized, hdnf.trans, h.fatalReported.trans⟩
  · have hunres : ¬e.resolved = true := by simp [unresolved_of_mayResolve hm (hinv.running r hc)]
    exact ⟨fun hr => absurd hr hunres, h.initialized, fun hd => absurd (hinv.notFoundLow hd).1 hunres,
      h.fatalReported.trans⟩

/-- A SENSOR step keeps them, whether it ends its command or not. -/
theorem SensorInv.flagsKept_stepSensor {c : Config} {e : Sensor} (h : SensorInv c e) (d : BusDraw) :
    FlagsKept e (stepSensor c d e) := by
  cases hb : e.busy with
  | false => rw [stepSensor_idle hb]; exact .refl e
  | true =>
    rcases stepSensor_cases c d e hb with hon | hdone
    · exact hon.flagsKept
    · exact hdone.flagsKept h

/-- Every agent's step but a reset keeps them. -/
theorem Inv.flagsKept_agentStep {a : AgentStep} {s t : State} (h : Inv s) (hreset : ∀ tx rx st, a ≠ .reset tx rx st)
    (ht : agentStep a s = .next t) : FlagsKept s.sensor t.sensor := by
  cases a with
  | host d => exact (hostStep_effect h.configOk ht).sensor.flagsKept
  | sensor d =>
    cases ht
    exact h.sensor.flagsKept_stepSensor d
  | btn b =>
    cases ht
    obtain ⟨-, hkept, -⟩ := btnStep_frame b s
    exact hkept ▸ .refl _
  | blink =>
    cases ht
    obtain ⟨-, hkept, -⟩ := blinkTick_frame s
    exact hkept ▸ .refl _
  | reset tx rx st => exact absurd rfl (hreset tx rx st)

/-- Settles O49: every agent but reset keeps the flags, SENSOR because a commit needs RESOLVED 0. -/
theorem persistentFlagsStayUntilReset : Obligations.PersistentFlagsStayUntilReset := by
  intro s t a rest hinv hs hreset h
  obtain ⟨-, ha⟩ := agentStep_of_step hs h
  obtain ⟨hres, hini, hdnf, hrep⟩ := (hinv.setSchedule rest).flagsKept_agentStep hreset ha
  exact ⟨hres, hini, hdnf, hrep⟩

end Sys2Proof.Machine
end

section
/-! PROOFS. The family 20_memory.md: host accesses (R72 to R76), the agents' interleaving (R84, R89), and the framing of
register reads (R78, R91). -/

namespace Sys2Proof.Machine

/-! ## The scheduled turn -/

/-- In a configuration with a meaning the step is the scheduled agent's (R84). -/
theorem step_eq_agentStep {s : State} {a : AgentStep} {rest : List AgentStep} (hin : s.config.inRange = true)
    (hs : s.schedule = a :: rest) : step s = agentStep a { s with schedule := rest } := by
  rw [step, if_pos hin, hs]

/-- With nothing scheduled the step stutters (log entry 5). -/
theorem step_of_schedule_nil {s : State} (hin : s.config.inRange = true) (hs : s.schedule = []) :
    step s = .next s := by
  rw [step, if_pos hin, hs]

/-- Settles O8: each kind of turn is that agent's own step. -/
theorem stepTakesTheScheduledTurn : Obligations.StepTakesTheScheduledTurn := fun _ _ hin =>
  ⟨step_of_schedule_nil hin, fun _ => step_eq_agentStep hin, fun _ => step_eq_agentStep hin, step_eq_agentStep hin,
    fun _ _ _ => step_eq_agentStep hin, fun _ => step_eq_agentStep hin⟩

/-- HOST's turn at a write is that write, past it in the program (R85). -/
theorem hostStep_memWrite {s : State} {addr size : Nat} {v : Word} {ops : List HostOp}
    (h : s.program = .memWrite addr size v :: ops) (d : Byte) :
    hostStep d s = hostWrite addr size v { s with program := ops } := by
  rw [hostStep, h]

/-- Settles O5: HOST's turn is the write, and the write of a word that decodes runs its command. -/
theorem stepRunsTheWrittenCommand : Obligations.StepRunsTheWrittenCommand := by
  intro s p w i d ops rest hin hprog hsched hdec
  calc step s = hostStep d { s with schedule := rest } := step_eq_agentStep hin hsched
    _ = hostWrite (s.config.baseAddr + p.offset) 4 w { s with program := ops, schedule := rest } :=
      hostStep_memWrite (s := { s with schedule := rest }) hprog d
    _ = exec i { s with program := ops, schedule := rest } :=
      hostWrite_port { s with program := ops, schedule := rest } p w i hdec

/-! ## Host accesses -/

/-- An access of another size, not aligned or outside the window reaches no offset (R72). -/
theorem accessOffset_of_refused {c : Config} {addr size : Nat}
    (h : size ≠ 4 ∨ ((addr : Int) - c.baseAddr) % 4 ≠ 0 ∨ (addr : Int) - c.baseAddr < 0 ∨
      0xFFF < (addr : Int) - c.baseAddr) : accessOffset c addr size = none :=
  if_neg (by omega)

/-- Settles O9: a refused access reaches no offset, so it is recorded. -/
theorem refusedAccessIsOnlyRecorded : Obligations.RefusedAccessIsOnlyRecorded := by
  intro s addr size v name d offset hrefused
  have hnone : accessOffset s.config addr size = none := accessOffset_of_refused hrefused
  constructor
  · rw [hostWrite, hnone]
    rfl
  · rw [hostRead, hnone]
    rfl

/-- A write at an aligned offset of the window is the write of that offset's register (R72, R73). -/
theorem hostWrite_of_allowed {o : Nat} (v : Word) (s : State) (h : o ≤ 0xFFF) (h4 : o % 4 = 0) :
    hostWrite (s.config.baseAddr + o) 4 v s = writeRegister o v s := by
  rw [hostWrite, accessOffset_of_allowed s.config o h h4]

/-- Settles O10, from what an allowed read and an allowed write do. -/
theorem allowedAccessesReachTheirRegister : Obligations.AllowedAccessesReachTheirRegister := by
  intro s offset v name d h h4
  obtain ⟨t, ht⟩ := writeRegister_next offset v s
  obtain ⟨-, herrors, -⟩ := writeRegister_frame offset v s t ht
  exact ⟨hostRead_of_allowed offset name d s h h4, hostWrite_of_allowed v s h h4, t, ht, herrors⟩

/-- Outside S_TXBUF a write takes nothing (R74). -/
theorem writeBuffers_of_not_txbuf {o : Nat} (v : Word) (s : State) (h : o < 0x400 ∨ 0x7FC < o) :
    writeBuffers o v s = s := by
  have hnone : txIndex o = none := if_neg (by omega)
  rw [writeBuffers, hnone]

/-- Settles O15: no command register stands there, and no S_TXBUF entry. -/
theorem otherWritesAreIgnored : Obligations.OtherWritesAreIgnored := by
  intro s offset v hS hL hout
  rw [writeRegister, portAt_none hS hL]
  exact congrArg _ (writeBuffers_of_not_txbuf v s hout)

/-- Outside S_RXBUF the draw does not reach a read (R76). -/
theorem readBuffers_draw_irrel (e : Sensor) {o : Nat} (d d' : Byte) (h : o < 0x800 ∨ 0xBFC < o) :
    readBuffers e o d = readBuffers e o d' := by
  have hnone : rxIndex o = none := if_neg (by omega)
  unfold readBuffers
  rw [hnone]
  cases txIndex o <;> rfl

/-- Outside S_RXBUF no register depends on the draw (R76). -/
theorem readRegister_draw_irrel (s : State) {o : Nat} (d d' : Byte) (h : o < 0x800 ∨ 0xBFC < o) :
    readRegister s o d = readRegister s o d' := by
  unfold readRegister
  rw [readBuffers_draw_irrel s.sensor d d' h]

/-- Settles O12, from what S_RXBUF reads while BUSY. -/
theorem rxbufReadsAnyValueWhileBusy : Obligations.RxbufReadsAnyValueWhileBusy := by
  intro s d d' hb
  refine ⟨fun i hi => ?_, fun offset h => readRegister_draw_irrel s d d' h⟩
  rw [readRegister_rxbuf s d hi, if_pos hb]

/-! ## What the running command does not see -/

/-- The engine with another transmit buffer and another OVR: what HOST can change of it while it runs (R25, R40). -/
def Sensor.withTx (m : Memory) (b : Bool) (e : Sensor) : Sensor := { e with txbuf := m, ovr := b }

/-- A step of the engine that neither reads nor writes its transmit buffer and OVR. -/
def IgnoresTx (f : Sensor → Sensor) : Prop := ∀ m b e, f (e.withTx m b) = (f e).withTx m b

section
variable (c : Config) (d : BusDraw)

/-- `resolve` ignores them if what follows it does (R180). -/
theorem runResolve_ignoresTx (at' : ResolvePt → Running) {return' : Addr → Bool → Sensor → Sensor}
    (hret : ∀ a nf, IgnoresTx (return' a nf)) (p : ResolvePt) : IgnoresTx (runResolve c at' return' p d) := by
  intro m b e
  match p with
  | .high .start | .high (.held _) | .low .start | .low (.held _) => rfl
  | .high (.got sent received) =>
    unfold runResolve
    dsimp only
    rw [apply_ite (Sensor.withTx m b), ← hret]
    rfl
  | .low (.got sent received) => exact hret _ _ m b (noteAccess received (readOk 1 sent received) e)

/-- `await` ignores them if what follows it does (R193). -/
theorem runAwait_ignoresTx (at' : ReadPt → Running) {ready timeout : Sensor → Sensor} (hready : IgnoresTx ready)
    (htimeout : IgnoresTx timeout) (p : ReadPt) : IgnoresTx (runAwait c at' ready timeout p d) := by
  intro m b e
  match p with
  | .start | .held _ => rfl
  | .got sent received =>
    unfold runAwait
    dsimp only
    rw [apply_ite (Sensor.withTx m b), apply_ite (Sensor.withTx m b), ← hready, ← htimeout]
    rfl

/-- INIT's loop ignores them (R185). -/
theorem initNextWrite_ignoresTx (ran : Bool) (a : Addr) (nf : Bool) (writes : List (Byte × Byte)) :
    IgnoresTx (initNextWrite ran a nf writes d) := by
  intro m b e
  match writes with
  | [] => cases ran <;> rfl
  | _ :: _ => rfl

/-- INIT ignores them (R185). -/
theorem runInit_ignoresTx (p : InitPt) : IgnoresTx (runInit c p d) := by
  have hresolve : ∀ p, IgnoresTx (runResolve c (fun p => .init (.resolving p))
      (fun a nf e => initNextWrite true a nf c.initWrites d e) p d) :=
    runResolve_ignoresTx c d _ fun a nf => initNextWrite_ignoresTx d true a nf c.initWrites
  intro m b e
  match p with
  | .start =>
    unfold runInit
    dsimp only
    rw [apply_ite (Sensor.withTx m b), ← hresolve, ← initNextWrite_ignoresTx]
    rfl
  | .resolving p => exact hresolve p m b e
  | .wrote ran a nf rest sent => exact initNextWrite_ignoresTx d ran a nf rest m b (noteAccess sent (writeOk 1 sent) e)

/-- READ_TEMP ignores them (R189). -/
theorem runReadTemp_ignoresTx (p : ReadPt) : IgnoresTx (runReadTemp c p d) := by
  intro m b e
  match p with
  | .start | .held _ => rfl
  | .got sent received =>
    unfold runReadTemp
    dsimp only
    cases readOk 1 sent received <;> rfl

/-- READ_MOTION ignores them (R197). -/
theorem runReadMotion_ignoresTx (p : MotionPt) : IgnoresTx (runReadMotion c p d) := by
  intro m b e
  match p with
  | .await p => exact runAwait_ignoresTx c d _ (fun _ _ _ => rfl) (fun _ _ _ => rfl) p m b e
  | .low _ _ .start | .low _ _ (.held _) | .low _ _ (.got _ _) => rfl
  | .high _ _ _ _ .start | .high _ _ _ _ (.held _) => rfl
  | .high axis _ _ _ (.got _ _) => cases axis <;> rfl

/-- A SENSOR step ignores them, whatever command runs (R89). -/
theorem stepSensor_ignoresTx : IgnoresTx (stepSensor c d) := by
  intro m b e
  have hctl : (e.withTx m b).ctl = e.ctl := rfl
  unfold stepSensor
  rw [hctl]
  match e.ctl with
  | .idle => rfl
  | .run (.readReg _ _ p) => cases p <;> rfl
  | .run (.writeReg _ _ p) => cases p <;> rfl
  | .run (.resolveAddr p) => exact runResolve_ignoresTx c d .resolveAddr (fun _ _ _ _ _ => rfl) p m b e
  | .run (.init p) => exact runInit_ignoresTx c d p m b e
  | .run (.readTemp p) => exact runReadTemp_ignoresTx c d p m b e
  | .run (.awaitDrdy p) => exact runAwait_ignoresTx c d _ (fun _ _ _ => rfl) (fun _ _ _ => rfl) p m b e
  | .run (.readMotion p) => exact runReadMotion_ignoresTx c d p m b e

end

/-- Settles O23: no command's run reads or writes S_TXBUF or OVR. -/
theorem runningCommandIgnoresTxbuf : Obligations.RunningCommandIgnoresTxbuf :=
  fun c d e m b => stepSensor_ignoresTx c d m b e

/-! ## The framing of register reads -/

/-- An idle engine has no read to make. -/
theorem pendingRead_of_idle {c : Config} {e : Sensor} (h : e.ctl = .idle) : pendingRead c e = none := by
  rw [pendingRead, h]

/-- Only a point past a held write has a read to make. -/
theorem pendingAt_eq_some {a : Addr} {reg : Byte} {n : Nat} {pt : ReadPt} {p : PendingRead}
    (h : pendingAt a reg n pt = some p) : ∃ sent, pt = .held sent ∧ p = ⟨a, reg, n, sent⟩ := by
  cases pt <;> cases h
  exact ⟨_, rfl, rfl⟩

/-- The engine's step is the read that `p` names, the second primitive of a register read placed in its command by
`at'`; past it no read is pending. -/
def MakesRead (c : Config) (d : BusDraw) (e : Sensor) (p : PendingRead) : Prop :=
  ∃ at' : ReadPt → Running, stepSensor c d e = regReadHeld p.a7 p.n p.sent at' d e ∧
    ∀ (e' : Sensor) sent received, pendingRead c { e' with ctl := .run (at' (.got sent received)) } = none

/-- A command whose held points step to the read makes the read that is pending at one. -/
theorem MakesRead.of_ctl {c : Config} {d : BusDraw} {e : Sensor} {p : PendingRead} {a : Addr} {reg : Byte} {n : Nat}
    {pt : ReadPt} (at' : ReadPt → Running) (hctl : e.ctl = .run (at' pt)) (h : pendingAt a reg n pt = some p)
    (hstep : ∀ sent, stepSensor c d { e with ctl := .run (at' (.held sent)) } = regReadHeld a n sent at' d e)
    (hnone : ∀ (e' : Sensor) sent received,
      pendingRead c { e' with ctl := .run (at' (.got sent received)) } = none) : MakesRead c d e p := by
  obtain ⟨sent, rfl, rfl⟩ := pendingAt_eq_some h
  have he : e = { e with ctl := .run (at' (.held sent)) } := by rw [← hctl]
  exact ⟨at', (congrArg _ he).trans (hstep sent), hnone⟩

/-- While a read is pending the step makes it, whatever the held write sent (R78, R158). -/
theorem stepSensor_of_pendingRead {c : Config} {e : Sensor} {p : PendingRead} (h : pendingRead c e = some p)
    (d : BusDraw) : MakesRead c d e p := by
  cases hctl : e.ctl with
  | idle =>
    rw [pendingRead_of_idle hctl] at h
    cases h
  | run r =>
    rw [pendingRead, hctl] at h
    match r with
    | .readReg reg len _ => exact .of_ctl (.readReg reg len) hctl h (fun _ => rfl) fun _ _ _ => rfl
    | .resolveAddr (.high _) => exact .of_ctl (fun p => .resolveAddr (.high p)) hctl h (fun _ => rfl) fun _ _ _ => rfl
    | .resolveAddr (.low _) => exact .of_ctl (fun p => .resolveAddr (.low p)) hctl h (fun _ => rfl) fun _ _ _ => rfl
    | .init (.resolving (.high _)) =>
      exact .of_ctl (fun p => .init (.resolving (.high p))) hctl h (fun _ => rfl) fun _ _ _ => rfl
    | .init (.resolving (.low _)) =>
      exact .of_ctl (fun p => .init (.resolving (.low p))) hctl h (fun _ => rfl) fun _ _ _ => rfl
    | .readTemp _ => exact .of_ctl .readTemp hctl h (fun _ => rfl) fun _ _ _ => rfl
    | .awaitDrdy _ => exact .of_ctl .awaitDrdy hctl h (fun _ => rfl) fun _ _ _ => rfl
    | .readMotion (.await _) => exact .of_ctl (fun p => .readMotion (.await p)) hctl h (fun _ => rfl) fun _ _ _ => rfl
    | .readMotion (.low axis new _) =>
      exact .of_ctl (fun p => .readMotion (.low axis new p)) hctl h (fun _ => rfl) fun _ _ _ => rfl
    | .readMotion (.high axis okL lo new _) =>
      exact .of_ctl (fun p => .readMotion (.high axis okL lo new p)) hctl h (fun _ => rfl) fun _ _ _ => rfl

/-- Settles O53: the step is the pending read, and what a read leaves is said by its own laws. -/
theorem readFollowsItsHeldWrite : Obligations.ReadFollowsItsHeldWrite := by
  intro s p d h
  obtain ⟨at', hstep, hnone⟩ := stepSensor_of_pendingRead h d
  rw [sensorStep_sensor, hstep]
  exact ⟨regReadHeld_busHistory .., hnone _ _ _, busy_of_run (regReadHeld_ctl ..)⟩

/-- With no read pending there is nothing to hold. -/
theorem heldIsLast_of_noRead {s : State} (h : pendingRead s.config s.sensor = none) : heldIsLast s := by
  intro p hp
  rw [h] at hp
  cases hp

/-- A step that leaves the engine but for S_TXBUF and OVR leaves the pending read and the history. -/
theorem heldIsLast_of_kept {s t : State} (h : heldIsLast s) (hconfig : t.config = s.config)
    (hkept : t.sensor = { s.sensor with txbuf := t.sensor.txbuf, ovr := t.sensor.ovr }) : heldIsLast t := by
  rw [heldIsLast, hconfig, hkept]
  exact h

/-- A SENSOR step that leaves a read pending has just made its held write (R158). -/
theorem heldIsLast_sensorStep {s : State} (h : heldIsLast s) (d : BusDraw) : heldIsLast (sensorStep d s) := by
  cases hb : s.sensor.busy with
  | false => exact heldIsLast_of_kept h rfl (by rw [sensorStep_sensor, stepSensor_idle hb])
  | true =>
    rcases stepSensor_cases s.config d s.sensor hb with hon | hdone
    · obtain ⟨v, hhist, hheld⟩ := hon.hist
      intro p hp
      rw [sensorStep_sensor, hhist, ← hheld p hp]
      exact List.getLast?_concat
    · exact heldIsLast_of_noRead (pendingRead_of_idle hdone.ctl)

/-- A command written while none runs has made no transaction yet (R155). -/
theorem exec_noRead {i : Instr} {s t : State} (hin : s.config.inRange = true) (hidle : s.sensor.ctl = .idle)
    (h : exec i s = .next t) : pendingRead t.config t.sensor = none := by
  by_cases hi : i = .startLed
  · subst hi
    obtain ⟨hsensor, -⟩ := execStartLed_frame s t h
    exact pendingRead_of_idle (hsensor ▸ hidle)
  · rcases exec_sensor_cases hi hin h with
      ⟨hb, -⟩ | ⟨-, ⟨_, -, rfl⟩ | ⟨-, rfl⟩ | ⟨-, r, st, hacc, rfl⟩⟩
    · rw [busy_of_idle hidle] at hb
      cases hb
    · exact pendingRead_of_idle hidle
    · exact pendingRead_of_idle hidle
    · exact hacc.nopend _ rfl

/-- HOST's step leaves no read pending where none runs (R155). -/
theorem hostStep_noRead {d : Byte} {s t : State} (hin : s.config.inRange = true) (hidle : s.sensor.ctl = .idle)
    (h : hostStep d s = .next t) : pendingRead t.config t.sensor = none := by
  rcases hostStep_cases d s t h with
    ⟨hs, -⟩ | ⟨i, v, -, hs, -⟩ | ⟨p, w, ops, i, -, -, he⟩ | ⟨p, ops, rfl⟩
  · exact pendingRead_of_idle (hs ▸ hidle)
  · exact pendingRead_of_idle (hs ▸ hidle)
  · exact exec_noRead (s := { s with program := ops }) hin hidle he
  · apply pendingRead_of_idle
    rcases illegalCommand_cases p { s with program := ops } with ⟨_, -, ht⟩ | ⟨-, ht⟩ | ⟨-, ht⟩
    all_goals
      rw [ht]
      exact hidle

/-- Every agent's step keeps the held write last: HOST while BUSY changes S_TXBUF and OVR alone, BTN and BLINK nothing
of the engine, and a reset drops the command. -/
theorem heldIsLast_agentStep {a : AgentStep} {s t : State} (hin : s.config.inRange = true) (h : heldIsLast s)
    (ht : agentStep a s = .next t) : heldIsLast t := by
  cases a with
  | host d =>
    have heffect := hostStep_effect hin ht
    cases hb : s.sensor.busy with
    | false => exact heldIsLast_of_noRead (hostStep_noRead hin (not_busy_iff.1 hb) ht)
    | true => exact heldIsLast_of_kept h heffect.config (heffect.sensor.of_busy hb)
  | sensor d =>
    cases ht
    exact heldIsLast_sensorStep h d
  | btn b =>
    cases ht
    obtain ⟨hconfig, hsensor, -⟩ := btnStep_frame b s
    exact heldIsLast_of_kept h hconfig (by rw [hsensor])
  | blink =>
    cases ht
    obtain ⟨hconfig, hsensor, -⟩ := blinkTick_frame s
    exact heldIsLast_of_kept h hconfig (by rw [hsensor])
  | reset tx rx st =>
    cases ht
    exact heldIsLast_of_noRead (pendingRead_of_idle rfl)

/-- Settles O52: a step is no step or one agent's, and each agent's keeps the held write last. -/
theorem heldWriteStaysLast : Obligations.HeldWriteStaysLast := by
  intro s t hinv h ht
  obtain ⟨hin, ⟨-, rfl⟩ | ⟨a, rest, -, ha⟩⟩ := step_next_cases ht
  · exact h
  · exact heldIsLast_agentStep (s := { s with schedule := rest }) hin h ha

end Sys2Proof.Machine
end

section
/-! PROOFS. The family 30_encoding.md: the opcode map and its encoder (R100 to R108), and the host's syntax (R109,
R110). -/

namespace Sys2Proof.Machine

/-! ## The opcode map -/

/-- The encoder writes each command's opcode and operands where the decoder reads them (R100 to R104). -/
theorem decode_encode (i : Instr) : decode (encode i).1 (encode i).2 = .ok i := by
  cases i with
  | readReg reg len | writeReg reg len =>
    show decodeSensor (formatS len reg _) = _
    rw [decodeSensor, opField_formatS, regField_formatS, lenField_formatS]
    rfl
  | _ => rfl

/-- Settles O2: the byte lanes of a word decode as the word, and the encoded word as its command. -/
theorem decodeOfEncodeIsTheCommand : Obligations.DecodeOfEncodeIsTheCommand := fun i =>
  ⟨decode_encode i, (decodeBytes_wordLanes _ _).trans (decode_encode i)⟩

/-- At S_CMD the opcodes outside 0x01 to 0x07 spell no command (R106). -/
theorem decode_sCmd_of_illegal {w : Word} (h : (opField w).toNat = 0 ∨ 8 ≤ (opField w).toNat) :
    decode .sCmd w = .error (.illegalSensorOpcode (opField w)) := by
  rw [decode, decodeSensor]
  split
  case h_8 => rfl
  all_goals omega

/-- At L_CMD the opcodes other than 0x01 spell no command (R106). -/
theorem decode_lCmd_of_illegal {w : Word} (h : (opField w).toNat ≠ 1) :
    decode .lCmd w = .error (.illegalLedOpcode (opField w)) := by
  rw [decode, decodeLed]
  split
  · contradiction
  · rfl

/-- Settles O3: the eight opcodes by the decoders' own rows, and the others by what spells no command. -/
theorem opcodeMapIsTotal : Obligations.OpcodeMapIsTotal := by
  intro w
  refine ⟨?_, ?_, ?_, ?_, ?_, ?_, ?_, fun h => ⟨_, decode_sCmd_of_illegal h⟩, ?_,
    fun h => ⟨_, decode_lCmd_of_illegal h⟩⟩
  all_goals
    intro h
    simp only [decode, decodeSensor, decodeLed, opField, regField, lenField, h]

/-- Settles O1: the fixed words, evaluated. -/
theorem specWordsDecode : Obligations.SpecWordsDecode := ⟨rfl, rfl, rfl, rfl, rfl, rfl, rfl, rfl, rfl⟩

/-! ## Ignored fields and illegal words -/

/-- OP is all that the mask 0xFF keeps (R100). -/
theorem opField_and_mask (w : Word) : opField (w &&& 0xFF) = opField w := by
  have mask : (0xFF : Word).extractLsb' 0 8 = BitVec.allOnes 8 := by decide
  rw [opField, BitVec.extractLsb'_and, mask, BitVec.and_allOnes, opField]

/-- OP 0x03 to 0x07 take no operand, so words with the same such OP decode alike at S_CMD (R107). -/
theorem decode_sCmd_congr {w w' : Word} (hop : opField w = opField w') (hl : 3 ≤ (opField w').toNat)
    (hu : (opField w').toNat ≤ 7) : decode .sCmd w = decode .sCmd w' := by
  rw [decode, decode, decodeSensor, decodeSensor, hop]
  split
  case h_1 | h_2 => omega
  all_goals rfl

/-- Words with the same OP decode alike at L_CMD (R107). -/
theorem decode_lCmd_congr {w w' : Word} (hop : opField w = opField w') : decode .lCmd w = decode .lCmd w' := by
  rw [decode, decode, decodeLed, decodeLed, hop]

/-- A write at a command register's offset is the write of that command register (R22, R73). -/
theorem writeRegister_port (p : Port) (w : Word) (s : State) : writeRegister p.offset w s = writeCommand p w s := by
  rw [writeRegister, portAt_offset]

/-- A command register acts on what its word decodes to, and on nothing else of the word (R108). -/
theorem writeRegister_congr {p : Port} {w w' : Word} (h : decode p w = decode p w') (s : State) :
    writeRegister p.offset w s = writeRegister p.offset w' s := by
  rw [writeRegister_port, writeRegister_port, writeCommand, writeCommand, h]

/-- Settles O4: clearing bits [31:8] keeps OP, and no other field is decoded there. -/
theorem ignoredFieldsDoNotMatter : Obligations.IgnoredFieldsDoNotMatter := fun s w =>
  have hop : opField w = opField (w &&& 0xFF) := (opField_and_mask w).symm
  ⟨fun hl hu => writeRegister_congr (p := .sCmd) (decode_sCmd_congr hop (hop ▸ hl) (hop ▸ hu)) s,
    writeRegister_congr (p := .lCmd) (decode_lCmd_congr hop) s⟩

/-- A word that spells no command is answered by `illegalCommand` (R106). -/
theorem writeRegister_of_error {p : Port} {w : Word} {e : DecodeError} (h : decode p w = .error e) (s : State) :
    writeRegister p.offset w s = .next (illegalCommand p s) := by
  rw [writeRegister_port, writeCommand, h]

/-- Settles O18: at S_CMD the answer is a reject with ILLEGAL, at L_CMD it sets LRESULT. -/
theorem illegalWordsReportIllegal : Obligations.IllegalWordsReportIllegal := fun s _ =>
  ⟨fun hop hb => (writeRegister_of_error (p := .sCmd) (decode_sCmd_of_illegal hop) s).trans
      (congrArg _ (issueSensor_reject (fun e => e) hb (by decide))),
    fun hop => writeRegister_of_error (p := .lCmd) (decode_lCmd_of_illegal hop) s⟩

/-! ## The host's syntax -/

/-- Settles O57: HOST's turn is the write of the encoded word to its register, and that word decodes to the command. -/
theorem commandSyntaxIssuesTheCommand : Obligations.CommandSyntaxIssuesTheCommand := fun s i ops d hprog =>
  calc hostStep d s
      = hostWrite (s.config.baseAddr + (encode i).1.offset) 4 (encode i).2 { s with program := ops } :=
        hostStep_memWrite hprog d
    _ = exec i { s with program := ops } := hostWrite_port { s with program := ops } _ _ i (decode_encode i)

/-- Settles O56: HOST's turn at a WAITIDLE, by the value of BUSY. -/
theorem waitIdleWaitsForBusy : Obligations.WaitIdleWaitsForBusy := by
  intro s ops d hprog
  rw [hostStep_waitIdle hprog d]
  exact ⟨fun hb => by rw [if_pos hb], fun hb => by rw [if_neg (by simp [hb])]⟩

/-- A table word's command is what its word decodes to at the register its offset names (log entry 1). -/
theorem decodeTableWord_some {nbits w : Nat} {i : Instr} (h : decodeTableWord nbits w = some i) :
    ∃ p : Port, tableOffset nbits w = p.offset ∧ decode p (tableWord nbits w) = .ok i := by
  unfold decodeTableWord at h
  split at h
  · rename_i p hp
    rw [decodeBytes_wordLanes] at h
    refine ⟨p, portAt_some hp, ?_⟩
    cases hd : decode p (tableWord nbits w) with
    | ok j => rw [hd] at h; cases h; rfl
    | error e => rw [hd] at h; cases h
  · cases h

/-- Settles O6: the placed access is the write of a word that decodes to the command, and past it the state is the
original one. -/
theorem placedWordRunsNext : Obligations.PlacedWordRunsNext := by
  intro s nbits w i hin hw
  obtain ⟨p, hoff, hdec⟩ := decodeTableWord_some hw
  refine stepRunsTheWrittenCommand (s.withFetchWord nbits w) p (tableWord nbits w) i 0 s.program s.schedule
    hin ?_ rfl hdec
  rw [← hoff]
  rfl

/-! ## The payload's writes -/

/-- The low byte lane of a zero-extended byte is the byte (R71). -/
theorem byteLane_setWidth (b : Byte) : byteLane (b.setWidth 32) 0 = b := by
  rw [byteLane, ← BitVec.setWidth_eq_extractLsb' (by decide), BitVec.setWidth_setWidth_of_le _ (by decide),
    BitVec.setWidth_eq]

/-- A step that completes is the first of a run. -/
theorem run_succ_of_step {M : Host.Core} {s t : M.State} (h : M.step s = .next t) (n : Nat) :
    M.run (n + 1) s = M.run n t := by
  rw [Host.Core.run, h]

/-- HOST's turn at one `WR` of a payload stores its byte in its S_TXBUF entry (R40, R110). -/
theorem step_payloadWrite {s : State} {k : Nat} {b d : Byte} {ops : List HostOp} {rest : List AgentStep}
    (hin : s.config.inRange = true) (hk : k < 256)
    (hprog : s.program = opWr s.config (0x400 + 4 * k) (b.setWidth 32) :: ops) (hsched : s.schedule = .host d :: rest) :
    step s = .next
      { s with
        sensor := { s.sensor with txbuf := s.sensor.txbuf.write k b }, program := ops, schedule := rest } := by
  rw [step_eq_agentStep hin hsched, agentStep, hostStep_memWrite (s := { s with schedule := rest }) hprog,
    hostWrite_of_allowed _ { s with program := ops, schedule := rest } (by omega) (by omega),
    writeRegister_txbuf _ _ hk, byteLane_setWidth]

/-- A run of HOST's turns over a payload's `WR`s is one store of the payload, byte by byte from entry `k` on (R110). -/
theorem run_opsPayload {payload draws : List Byte} {ops : List HostOp} {k : Nat} {s : State}
    (hin : s.config.inRange = true) (hk : k + payload.length ≤ 256) (hlen : draws.length = payload.length)
    (hprog : s.program = opsPayload s.config k payload ++ ops) (hsched : s.schedule = draws.map AgentStep.host) :
    Host.Core.run core payload.length s = .next
      { s with
        sensor := { s.sensor with txbuf := s.sensor.txbuf.writeBytes k payload }, program := ops, schedule := [] } := by
  induction payload generalizing s k draws with
  | nil =>
    obtain rfl := List.length_eq_zero_iff.1 hlen
    cases s
    cases hprog
    cases hsched
    rfl
  | cons b bs ih =>
    obtain ⟨d, ds, rfl⟩ := List.exists_cons_of_length_eq_add_one hlen
    rw [List.length_cons] at hk
    rw [List.length_cons, run_succ_of_step (M := core) (step_payloadWrite hin (by omega) hprog hsched) bs.length]
    exact ih hin (by omega) (by simpa using hlen) rfl rfl

/-- Settles O58: the run stores the payload, and a store reads back where it was put and nowhere else. -/
theorem payloadSyntaxFillsTxbuf : Obligations.PayloadSyntaxFillsTxbuf := by
  intro s payload ops draws hin hmax hwf hlen hprog hsched
  refine ⟨_, run_opsPayload hin (by omega) hlen hprog hsched, Memory.readBytes_writeBytes hwf payload,
    fun j hj => ?_⟩
  rw [Memory.read_writeBytes hwf, if_neg (by omega)]

end Sys2Proof.Machine
end

section
/-! PROOFS. The family 40_button_led.md: START_LED (R121, R122), the button and its presses (R123 to R128), and the
blink cycle (R129 to R136). -/

namespace Sys2Proof.Machine

/-! ## START_LED -/

/-- Settles O38, state by state; from IDLE the strap IRQ_AVAILABLE decides. -/
theorem startLedByState : Obligations.StartLedByState := by
  intro s p
  have hexec : exec .startLed s = execStartLed s := rfl
  rw [hexec, execStartLed]
  refine ⟨fun hs hirq => ?_, fun hs hirq => ?_, fun hs => ?_, fun hs => ?_⟩
  · simp only [hs, if_pos hirq]
    rfl
  · simp only [hs, hirq, Bool.false_eq_true, if_false]
    rfl
  · simp only [hs]
  · simp only [hs]

/-- `period_of` at pattern 0 (R129). -/
theorem periodOf_zero_toNat {c : Config} (hin : c.inRange = true) : (periodOf c 0).toNat = c.baseDelay :=
  (periodOf_toNat hin (p := 0) (Config.pos_of_inRange hin).1).trans (Nat.mul_one _)

/-- Settles O39: an idle engine of the invariant is dark, and its pattern is 0. -/
theorem firstPeriodIsBaseDelay : Obligations.FirstPeriodIsBaseDelay := by
  intro s hinv hs hirq
  obtain ⟨hA, hB, -, hpattern, -⟩ := hinv.led.idleDark hs
  have hperiod : (periodOf s.config s.led.pattern).toNat = s.config.baseDelay := by
    rw [hpattern, periodOf_zero_toNat hinv.configOk]
  exact ⟨_, (startLedByState s).1 hs hirq, rfl, hperiod, hperiod, hA, hB⟩

/-- Settles O42: R9 keeps BASE_DELAY * (p + 1) in 32 bits, and BASE_DELAY is positive. -/
theorem blinkPeriodIncreases : Obligations.BlinkPeriodIncreases := by
  intro c p q hin hp hq
  refine ⟨periodOf_toNat hin hp, periodOf_zero_toNat hin, fun hlt => ?_⟩
  rw [periodOf_toNat hin hp, periodOf_toNat hin hq]
  exact Nat.mul_lt_mul_of_pos_left (Nat.succ_lt_succ hlt) (Config.pos_of_inRange hin).2

/-! ## The BLINK tick -/

/-- BLINK has no step to take while not RUNNING (log entry 5). -/
theorem blinkTick_of_not_running {s : State} (h : s.led.state ≠ .running) : blinkTick s = s := by
  unfold blinkTick
  split
  · contradiction
  · rfl
  · rfl

theorem blinkTick_of_running {s : State} (h : s.led.state = .running) :
    blinkTick s = { s with led := tickLed s.config s.led } := by
  rw [blinkTick, h]

/-- Only a count of 1 reaches 0 with one tick, also with the wrap at 0 (log entry 7). -/
theorem tickLed_of_ticks_ne_one (c : Config) {l : Led} (h : l.ticks ≠ 1) :
    tickLed c l = { l with ticks := l.ticks - 1 } :=
  if_neg fun h0 => h (by bv_omega)

/-- The end of the first half-cycle (R131). -/
theorem tickLed_of_firstHalf (c : Config) {l : Led} (ht : l.ticks = 1) (hp : l.phase = false) :
    tickLed c l = { l with ledA := true, ledB := false, phase := true, ticks := l.period } := by
  simp [tickLed, ht, hp]

/-- The end of the second half-cycle starts the next cycle (R130, R131). -/
theorem tickLed_of_secondHalf (c : Config) {l : Led} (ht : l.ticks = 1) (hp : l.phase = true) :
    tickLed c l = startCycle c { l with ledA := false, ledB := true } := by
  simp [tickLed, ht, hp, startCycle]

/-- Settles O43, case by case. -/
theorem blinkTickByPhase : Obligations.BlinkTickByPhase := by
  intro s p
  refine ⟨blinkTick_of_not_running, fun hs ht => ?_, fun hs ht hp => ?_, fun hs ht hp => ?_⟩
  · rw [blinkTick_of_running hs, tickLed_of_ticks_ne_one _ ht]
  · rw [blinkTick_of_running hs, tickLed_of_firstHalf _ ht hp]
  · rw [blinkTick_of_running hs, tickLed_of_secondHalf _ ht hp]
    rfl

/-! ## The BTN step -/

/-- Without a raw edge, or while not RUNNING, the sample is only kept (R123, R124). -/
theorem btnStep_of_not_counted {level : Bool} {s : State}
    (h : ¬(s.led.btnQ = false ∧ level = true) ∨ s.led.state ≠ .running) :
    btnStep level s = { s with led := { s.led with btnQ := level } } := by
  refine if_neg fun ⟨hedge, hs⟩ => ?_
  rcases h with hno | hstopped
  · exact hno (by simpa using hedge)
  · exact hstopped hs

/-- A raw edge while RUNNING runs the press handler (R124). -/
theorem btnStep_of_counted {level : Bool} {s : State} (hedge : s.led.btnQ = false ∧ level = true)
    (hs : s.led.state = .running) :
    btnStep level s = pressHandler { s with led := { s.led with btnQ := level } } :=
  if_pos ⟨by simpa using hedge, hs⟩

/-- An odd count is no qualifying press (R125, R127). -/
theorem pressHandler_of_odd {s : State} (h : (nextDebounce s.config s.led.debounce).toNat % 2 = 1) :
    pressHandler s = { s with led := { s.led with debounce := nextDebounce s.config s.led.debounce } } :=
  if_neg (by rw [h]; decide)

/-- An even count is a qualifying press, and is reported (R125, R128). -/
theorem pressHandler_of_even {s : State} (h : (nextDebounce s.config s.led.debounce).toNat % 2 = 0) :
    pressHandler s = diagnose .pattern (nextPattern s.config s.led.pattern)
      { s with
        led :=
          { s.led with
            debounce := nextDebounce s.config s.led.debounce
            pattern := nextPattern s.config s.led.pattern } } :=
  if_pos h

/-- The pattern counter counts modulo MAX_PATTERN (R126). -/
theorem nextPattern_eq {c : Config} (hin : c.inRange = true) {p : Word} (hp : p.toNat < c.maxPattern) :
    nextPattern c p = BitVec.ofNat 32 ((p.toNat + 1) % c.maxPattern) := by
  have hmax := maxPattern_bound hin
  unfold nextPattern
  split
  next hlast =>
    rw [hlast, Nat.mod_self]
    rfl
  next hmore =>
    rw [Nat.mod_eq_of_lt (by omega)]
    bv_omega

/-- Settles O40: the three ways of a BTN step, with the counters' increments as arithmetic. -/
theorem buttonStepCountsRawEdges : Obligations.ButtonStepCountsRawEdges := by
  intro s level hin hp edge n p
  have hn : nextDebounce s.config s.led.debounce = BitVec.ofNat 32 n :=
    BitVec.eq_of_toNat_eq (by rw [nextDebounce_toNat hin, BitVec.toNat_ofNat, Nat.mod_mod])
  have hcount : (nextDebounce s.config s.led.debounce).toNat = n := nextDebounce_toNat hin _
  refine ⟨btnStep_of_not_counted, fun hedge hs hodd => ?_, fun hedge hs heven => ?_⟩
  · rw [btnStep_of_counted hedge hs, pressHandler_of_odd (by rwa [hcount]), ← hn]
  · rw [btnStep_of_counted hedge hs, pressHandler_of_even (by rwa [hcount]), ← hn,
      show p = nextPattern s.config s.led.pattern from (nextPattern_eq hin hp).symm]
    rfl

/-! ## Presses among raw edges -/

/-- The qualifying presses among `k` raw edges counted from `d` on: the even values passed (R127). -/
def pressesAmong (d k : Nat) : Nat := (d + k) / 2 - d / 2

/-- Presses add up over two runs: the wrap of the counter keeps its parity (R127). -/
theorem pressesAmong_add (d k₁ k₂ : Nat) :
    pressesAmong d (k₁ + k₂) = pressesAmong d k₁ + pressesAmong ((d + k₁) % 2 ^ 32) k₂ := by
  unfold pressesAmong
  omega

/-- `k` raw edges lie between two states of a run while RUNNING (R125 to R128). -/
structure EdgesCounted (k : Nat) (s t : State) : Prop where
  config : t.config = s.config
  state : t.led.state = s.led.state
  debounce : t.led.debounce.toNat = (s.led.debounce.toNat + k) % 2 ^ 32
  pattern : t.led.pattern.toNat = (s.led.pattern.toNat + pressesAmong s.led.debounce.toNat k) % s.config.maxPattern
  reports : ∃ reports, t.diag = s.diag ++ reports ∧ reports.length = pressesAmong s.led.debounce.toNat k ∧
    ∀ r ∈ reports, r.kind = .pattern

/-- No raw edge: nothing of the count has moved. -/
theorem EdgesCounted.zero {s t : State} (hp : s.led.pattern.toNat < s.config.maxPattern) (hconfig : t.config = s.config)
    (hstate : t.led.state = s.led.state) (hdebounce : t.led.debounce = s.led.debounce)
    (hpattern : t.led.pattern = s.led.pattern) (hdiag : t.diag = s.diag) : EdgesCounted 0 s t where
  config := hconfig
  state := hstate
  debounce := by rw [hdebounce, Nat.add_zero, Nat.mod_eq_of_lt s.led.debounce.isLt]
  pattern := by rw [hpattern, pressesAmong, Nat.add_zero, Nat.sub_self, Nat.add_zero, Nat.mod_eq_of_lt hp]
  reports := ⟨[], by rw [hdiag, List.append_nil], by rw [pressesAmong, Nat.add_zero, Nat.sub_self]; rfl, nofun⟩

theorem EdgesCounted.trans {k₁ k₂ : Nat} {s t u : State} (h₁ : EdgesCounted k₁ s t)
    (h₂ : EdgesCounted k₂ t u) : EdgesCounted (k₁ + k₂) s u where
  config := h₂.config.trans h₁.config
  state := h₂.state.trans h₁.state
  debounce := by rw [h₂.debounce, h₁.debounce, Nat.mod_add_mod, Nat.add_assoc]
  pattern := by
    rw [h₂.pattern, h₁.pattern, h₁.config, h₁.debounce, Nat.mod_add_mod, Nat.add_assoc, ← pressesAmong_add]
  reports := by
    obtain ⟨r₁, hdiag₁, hlen₁, hkind₁⟩ := h₁.reports
    obtain ⟨r₂, hdiag₂, hlen₂, hkind₂⟩ := h₂.reports
    refine ⟨r₁ ++ r₂, by rw [hdiag₂, hdiag₁, List.append_assoc], ?_, fun r hr => ?_⟩
    · rw [List.length_append, hlen₁, hlen₂, h₁.debounce, ← pressesAmong_add]
    · exact (List.mem_append.1 hr).elim (hkind₁ r) (hkind₂ r)

theorem EdgesCounted.pattern_range {k : Nat} {s t : State} (h : EdgesCounted k s t)
    (hp : s.led.pattern.toNat < s.config.maxPattern) : t.led.pattern.toNat < t.config.maxPattern := by
  rw [h.pattern, h.config]
  exact Nat.mod_lt _ (Nat.zero_lt_of_lt hp)

/-- A tick samples no button (R131). -/
theorem edgesCounted_blinkTick {s : State} (hp : s.led.pattern.toNat < s.config.maxPattern) :
    EdgesCounted 0 s (blinkTick s) := by
  obtain ⟨hconfig, -, -, -, -, -, hdiag, hstate, hpattern, hdebounce, -, -⟩ := blinkTick_frame s
  exact .zero hp hconfig hstate hdebounce hpattern hdiag

/-- A counted edge is one edge, a press just when the count becomes even (R125, R127). -/
theorem edgesCounted_btnStep {s : State} {level : Bool} (hin : s.config.inRange = true) (hs : s.led.state = .running)
    (hp : s.led.pattern.toNat < s.config.maxPattern) :
    EdgesCounted (if !s.led.btnQ && level then 1 else 0) s (btnStep level s) := by
  have hmax := maxPattern_bound hin
  obtain ⟨hnone, hodd, heven⟩ := buttonStepCountsRawEdges s level hin hp
  by_cases hedge : s.led.btnQ = false ∧ level = true
  · rw [if_pos (by simpa using hedge)]
    rcases Nat.mod_two_eq_zero_or_one ((s.led.debounce.toNat + 1) % 2 ^ 32) with heq | heq
    · have hpress : pressesAmong s.led.debounce.toNat 1 = 1 := by unfold pressesAmong; omega
      have hlt := Nat.mod_lt (s.led.pattern.toNat + 1) (Nat.zero_lt_of_lt hp)
      rw [heven hedge hs heq]
      refine ⟨rfl, rfl, by simp, ?_, _, rfl, hpress.symm, by simp⟩
      rw [hpress]
      exact Nat.mod_eq_of_lt (hlt.trans hmax)
    · have hpress : pressesAmong s.led.debounce.toNat 1 = 0 := by unfold pressesAmong; omega
      rw [hodd hedge hs heq]
      refine ⟨rfl, rfl, by simp, ?_, [], (List.append_nil _).symm, hpress.symm, nofun⟩
      rw [hpress]
      exact (Nat.mod_eq_of_lt hp).symm
  · rw [if_neg (by simpa using hedge), hnone (.inl hedge)]
    exact .zero hp rfl rfl rfl rfl rfl

/-- Any run of BTN steps and ticks while RUNNING counts its raw edges (R127). -/
theorem edgesCounted_ledSteps {l : List (Option Bool)} {s : State} (hin : s.config.inRange = true)
    (hs : s.led.state = .running) (hp : s.led.pattern.toNat < s.config.maxPattern) :
    EdgesCounted (rawEdges s.led.btnQ l) s (ledSteps l s) := by
  induction l generalizing s with
  | nil => exact .zero hp rfl rfl rfl rfl rfl
  | cons turn l ih =>
    cases turn with
    | none =>
      have hfirst := edgesCounted_blinkTick hp
      have hrest := ih (hfirst.config ▸ hin) (hfirst.state.trans hs) (hfirst.pattern_range hp)
      obtain ⟨-, -, -, -, -, -, -, -, -, -, hbtn, -⟩ := blinkTick_frame s
      rw [hbtn] at hrest
      simpa [rawEdges, ledSteps] using hfirst.trans hrest
    | some level =>
      have hfirst := edgesCounted_btnStep (level := level) hin hs hp
      have hrest := ih (hfirst.config ▸ hin) (hfirst.state.trans hs) (hfirst.pattern_range hp)
      obtain ⟨-, -, -, -, -, -, -, -, -, -, -, -, -, hbtn⟩ := btnStep_frame level s
      rw [hbtn] at hrest
      exact hfirst.trans hrest

/-- Settles O41: the run counts its raw edges. -/
theorem everySecondRawEdgeIsAPress : Obligations.EverySecondRawEdgeIsAPress := by
  intro s l hin hs hp
  obtain ⟨-, -, hdebounce, hpattern, hreports⟩ := edgesCounted_ledSteps (l := l) hin hs hp
  exact ⟨hdebounce, hpattern, hreports⟩

/-! ## The half-cycle's countdown -/

/-- `n` ticks of one half-cycle lie between two states of a run: only its countdown has moved (R131, R133). -/
structure CountedDown (n : Nat) (s t : State) : Prop where
  config : t.config = s.config
  state : t.led.state = s.led.state
  ticks : t.led.ticks.toNat + n = s.led.ticks.toNat
  period : t.led.period = s.led.period
  phase : t.led.phase = s.led.phase
  ledA : t.led.ledA = s.led.ledA
  ledB : t.led.ledB = s.led.ledB

theorem CountedDown.refl (s : State) : CountedDown 0 s s := ⟨rfl, rfl, rfl, rfl, rfl, rfl, rfl⟩

theorem CountedDown.trans {m n : Nat} {s t u : State} (h₁ : CountedDown m s t) (h₂ : CountedDown n t u) :
    CountedDown (n + m) s u where
  config := h₂.config.trans h₁.config
  state := h₂.state.trans h₁.state
  ticks := by rw [← Nat.add_assoc, h₂.ticks, h₁.ticks]
  period := h₂.period.trans h₁.period
  phase := h₂.phase.trans h₁.phase
  ledA := h₂.ledA.trans h₁.ledA
  ledB := h₂.ledB.trans h₁.ledB

/-- The button does not touch the countdown (R133). -/
theorem countedDown_btnStep (level : Bool) (s : State) : CountedDown 0 s (btnStep level s) := by
  obtain ⟨hconfig, -, -, -, -, -, hstate, hticks, hperiod, hphase, hA, hB, -, -⟩ := btnStep_frame level s
  exact ⟨hconfig, hstate, congrArg BitVec.toNat hticks, hperiod, hphase, hA, hB⟩

/-- A tick that is not a half-cycle's last one is one tick of its countdown (R131). -/
theorem countedDown_blinkTick {s : State} (hs : s.led.state = .running) (h : 1 < s.led.ticks.toNat) :
    CountedDown 1 s (blinkTick s) := by
  have hmore : s.led.ticks ≠ 1 := fun h1 => by simp [h1] at h
  have hticks := toNat_sub_one h.le
  rw [blinkTick_of_running hs, tickLed_of_ticks_ne_one _ hmore]
  exact ⟨rfl, rfl, by dsimp only; omega, rfl, rfl, rfl, rfl⟩

/-- Before its last tick a half-cycle only counts down, whatever the button does (R132, R133). -/
theorem countedDown_ledSteps {l : List (Option Bool)} {s : State} (hs : s.led.state = .running)
    (h : tickCount l < s.led.ticks.toNat) : CountedDown (tickCount l) s (ledSteps l s) := by
  induction l generalizing s with
  | nil => exact .refl s
  | cons turn l ih =>
    cases turn with
    | none =>
      rw [tickCount] at h ⊢
      have hfirst := countedDown_blinkTick hs (by omega)
      have hticks := hfirst.ticks
      exact hfirst.trans (ih (hfirst.state.trans hs) (by omega))
    | some level =>
      rw [tickCount] at h ⊢
      have hfirst := countedDown_btnStep level s
      have hticks := hfirst.ticks
      exact hfirst.trans (ih (hfirst.state.trans hs) (by omega))

/-- The countdown stands at 1 once all ticks of the half-cycle but the last are taken. -/
theorem CountedDown.ticks_eq_one {n : Nat} {s t : State} (h : CountedDown n s t) (hn : n + 1 = s.led.ticks.toNat) :
    t.led.ticks = 1 := by
  have hticks := h.ticks
  exact BitVec.eq_of_toNat_eq (by simp; omega)

/-- The last tick of a first half-cycle turns LED_A on (R131). -/
theorem CountedDown.end_of_firstHalf {n : Nat} {s t : State} (h : CountedDown n s t) (hs : s.led.state = .running)
    (hn : n + 1 = s.led.ticks.toNat) (hphase : s.led.phase = false) :
    blinkTick t =
      { t with
        led := { t.led with ledA := true, ledB := false, phase := true, ticks := s.led.period } } := by
  rw [blinkTick_of_running (h.state.trans hs), tickLed_of_firstHalf _ (h.ticks_eq_one hn) (h.phase.trans hphase),
    ← h.period]

/-- The last tick of a second half-cycle turns LED_B on, and the next cycle samples the pattern of this moment (R130,
R131). -/
theorem CountedDown.end_of_secondHalf {n : Nat} {s t : State} (h : CountedDown n s t) (hs : s.led.state = .running)
    (hn : n + 1 = s.led.ticks.toNat) (hphase : s.led.phase = true) :
    blinkTick t = { t with led := startCycle s.config { t.led with ledA := false, ledB := true } } := by
  rw [blinkTick_of_running (h.state.trans hs), tickLed_of_secondHalf _ (h.ticks_eq_one hn) (h.phase.trans hphase),
    h.config]

/-- Settles O44: the run counts the half-cycle down, and the tick at 1 makes the update. -/
theorem halfCycleLastsItsTicks : Obligations.HalfCycleLastsItsTicks := by
  intro s l hs _ t u
  have hdown := countedDown_ledSteps (l := l) hs
  refine ⟨fun hlt => ?_, fun hlast hphase => ?_, fun hlast hphase => ?_⟩
  · obtain ⟨-, hstate, hticks, hperiod, hkept, hA, hB⟩ := hdown hlt
    exact ⟨hstate.trans hs, Nat.eq_sub_of_add_eq hticks, hperiod, hkept, hA, hB⟩
  · have ht := hdown (by omega)
    rw [show u = _ from ht.end_of_firstHalf hs hlast hphase]
    exact ⟨rfl, rfl, rfl, ht.period, rfl⟩
  · have ht := hdown (by omega)
    rw [show u = _ from ht.end_of_secondHalf hs hlast hphase]
    exact ⟨rfl, rfl, rfl, rfl, rfl⟩

/-! ## The timeline of a held pattern -/

theorem ledSteps_append (l₁ l₂ : List (Option Bool)) (s : State) :
    ledSteps (l₁ ++ l₂) s = ledSteps l₂ (ledSteps l₁ s) := by
  induction l₁ generalizing s with
  | nil => rfl
  | cons turn l ih =>
    cases turn with
    | none => exact ih _
    | some level => exact ih _

/-- `n` BLINK ticks in a row. -/
def ticksInARow (n : Nat) (s : State) : State := ledSteps (List.replicate n none) s

theorem ticksInARow_add (m n : Nat) (s : State) : ticksInARow (m + n) s = ticksInARow n (ticksInARow m s) := by
  rw [ticksInARow, List.replicate_add, ledSteps_append]
  rfl

theorem ticksInARow_succ (n : Nat) (s : State) : ticksInARow (n + 1) s = blinkTick (ticksInARow n s) :=
  ticksInARow_add n 1 s

theorem tickCount_replicate (n : Nat) : tickCount (List.replicate n none) = n := by
  induction n with
  | zero => rfl
  | succ n ih => rw [List.replicate_succ, tickCount, ih]

theorem countedDown_ticksInARow {n : Nat} {s : State} (hs : s.led.state = .running) (h : n < s.led.ticks.toNat) :
    CountedDown n s (ticksInARow n s) := by
  have hdown := countedDown_ledSteps (l := List.replicate n none) (s := s) hs
  rw [tickCount_replicate] at hdown
  exact hdown h

/-- Ticks alone hold the pattern (R126, R131). -/
theorem ticksInARow_pattern (n : Nat) (s : State) : (ticksInARow n s).led.pattern = s.led.pattern := by
  induction n generalizing s with
  | zero => rfl
  | succ n ih =>
    obtain ⟨-, -, -, -, -, -, -, -, hpattern, -⟩ := blinkTick_frame s
    exact (ih (blinkTick s)).trans hpattern

/-- A half-cycle of `w` ticks begins, the second one of its cycle if `second`, and the pattern's own period is `w`. -/
structure HalfCycleStart (w : Word) (second : Bool) (s : State) : Prop where
  running : s.led.state = .running
  phase : s.led.phase = second
  period : s.led.period = w
  ticks : s.led.ticks = w
  held : periodOf s.config s.led.pattern = w

/-- A half-cycle of a held pattern ends with the LED update of R131, and one of the same length and the other phase
begins. -/
theorem HalfCycleStart.next {w : Word} {second : Bool} {s : State} (h : HalfCycleStart w second s)
    (hw : 1 ≤ w.toNat) :
    HalfCycleStart w (!second) (ticksInARow w.toNat s) ∧
      (ticksInARow w.toNat s).led.ledA = !second ∧ (ticksInARow w.toNat s).led.ledB = second := by
  obtain ⟨hs, hphase, hperiod, hticks, hheld⟩ := h
  obtain ⟨m, hm⟩ := Nat.exists_eq_add_of_le' hw
  have hlast : m + 1 = s.led.ticks.toNat := by rw [hticks, hm]
  have hdown := countedDown_ticksInARow (n := m) hs (by omega)
  have hstate := hdown.state.trans hs
  have hheld' : periodOf s.config (ticksInARow m s).led.pattern = w := by rw [ticksInARow_pattern, hheld]
  rw [hm, ticksInARow_succ]
  cases second with
  | false =>
    rw [hdown.end_of_firstHalf hs hlast hphase]
    exact ⟨⟨hstate, rfl, hdown.period.trans hperiod, hperiod, hdown.config ▸ hheld'⟩, rfl, rfl⟩
  | true =>
    rw [hdown.end_of_secondHalf hs hlast hphase]
    exact ⟨⟨hstate, rfl, hheld', hheld', hdown.config ▸ hheld'⟩, rfl, rfl⟩

/-- After a whole cycle of a held pattern the same cycle begins, LED_A off and LED_B on (R132). -/
theorem HalfCycleStart.cycle {w : Word} {s : State} (h : HalfCycleStart w false s) (hw : 1 ≤ w.toNat) :
    HalfCycleStart w false (ticksInARow (2 * w.toNat) s) ∧
      (ticksInARow (2 * w.toNat) s).led.ledA = false ∧ (ticksInARow (2 * w.toNat) s).led.ledB = true := by
  obtain ⟨hsecond, -⟩ := h.next hw
  rw [Nat.two_mul, ticksInARow_add]
  exact hsecond.next hw

/-- After `k` cycles of a held pattern the next one begins; only the first one is entered with other levels (R132). -/
theorem HalfCycleStart.cycles {w : Word} {s : State} (h : HalfCycleStart w false s) (hw : 1 ≤ w.toNat) (k : Nat) :
    HalfCycleStart w false (ticksInARow (2 * w.toNat * k) s) ∧
      (k ≠ 0 → (ticksInARow (2 * w.toNat * k) s).led.ledA = false ∧
        (ticksInARow (2 * w.toNat * k) s).led.ledB = true) := by
  induction k with
  | zero => exact ⟨h, fun h0 => absurd rfl h0⟩
  | succ k ih =>
    obtain ⟨hstart, hA, hB⟩ := ih.1.cycle hw
    rw [Nat.mul_succ, ticksInARow_add]
    exact ⟨hstart, fun _ => ⟨hA, hB⟩⟩

/-- Inside a half-cycle the phase and the levels are those it began with, and the ticks left are counted down (R132). -/
theorem HalfCycleStart.within {w : Word} {second : Bool} {s : State} {j : Nat} (h : HalfCycleStart w second s)
    (hj : j < w.toNat) :
    (ticksInARow j s).led.phase = second ∧ (ticksInARow j s).led.ticks.toNat = w.toNat - j ∧
      (ticksInARow j s).led.ledA = s.led.ledA ∧ (ticksInARow j s).led.ledB = s.led.ledB := by
  obtain ⟨hs, hphase, -, rfl, -⟩ := h
  obtain ⟨-, -, hticks, -, hkept, hA, hB⟩ := countedDown_ticksInARow hs hj
  exact ⟨hkept.trans hphase, Nat.eq_sub_of_add_eq hticks, hA, hB⟩

/-- Settles O45: `k` cycles, then the half-cycle that place `j` lies in. -/
theorem ledTimelineOfAHeldPattern : Obligations.LedTimelineOfAHeldPattern := by
  intro s k j hin hs hp hphase hperiod hticks P t
  have hP : P = s.led.period.toNat := by rw [hperiod, periodOf_toNat hin hp]
  have hpos : 1 ≤ s.led.period.toNat := hperiod ▸ periodOf_pos hin hp
  have hstart : HalfCycleStart s.led.period false s := ⟨hs, hphase, rfl, hticks, hperiod.symm⟩
  have ht : t = ticksInARow j (ticksInARow (2 * P * k) s) := ticksInARow_add ..
  rw [ht, hP]
  obtain ⟨hcycle, hlevels⟩ := hstart.cycles hpos k
  refine ⟨fun hj => ?_, fun hj hj2 => ?_⟩
  · obtain ⟨hkept, hleft, hA, hB⟩ := hcycle.within hj
    refine ⟨hkept, hleft, ?_, fun hk => ?_⟩
    · rintro rfl
      exact ⟨hA, hB⟩
    · rw [hA, hB]
      exact hlevels hk
  · obtain ⟨i, rfl⟩ := Nat.exists_eq_add_of_le hj
    obtain ⟨hsecond, hsecondA, hsecondB⟩ := hcycle.next hpos
    obtain ⟨hkept, hleft, hA, hB⟩ := hsecond.within (j := i) (by omega)
    rw [ticksInARow_add, hA, hB]
    exact ⟨hkept, by omega, hsecondA, hsecondB⟩

/-! ## What changes the LED engine's state, and what the engines share -/

/-- HOST changes the engine's state from IDLE alone (R120, R121). -/
theorem HostToLed.state_kept {c : Config} {l l' : Led} (h : HostToLed c l l') (hs : l.state ≠ .idle) :
    l'.state = l.state := by
  cases h with
  | kept | answered => rfl
  | started hidle | failed hidle => exact absurd hidle hs

/-- Every agent but HOST and reset leaves the engine's state (R120). -/
theorem agentStep_ledState {a : AgentStep} {s t : State} (hreset : ∀ tx rx st, a ≠ .reset tx rx st)
    (h : agentStep a s = .next t) :
    t.led.state = s.led.state ∨ ∃ d, a = .host d ∧ hostStep d s = .next t := by
  cases a with
  | host d => exact .inr ⟨d, rfl, h⟩
  | sensor d =>
    cases h
    exact .inl rfl
  | btn level =>
    cases h
    obtain ⟨-, -, -, -, -, -, hstate, -⟩ := btnStep_frame level s
    exact .inl hstate
  | blink =>
    cases h
    obtain ⟨-, -, -, -, -, -, -, hstate, -⟩ := blinkTick_frame s
    exact .inl hstate
  | reset tx rx st => exact absurd rfl (hreset tx rx st)

/-- A sensor command leaves the LED engine (R136). -/
theorem exec_led_of_sensor {i : Instr} {s t : State} (hi : i ≠ .startLed) (h : exec i s = .next t) :
    t.led = s.led := by
  obtain ⟨f, hissue⟩ := exec_sensor_issue hi s
  cases hissue.symm.trans h
  obtain ⟨hled, -⟩ := issueSensor_frame (rejectCode s.config s.sensor i) f s
  exact hled

/-- A word that spells no command changes no engine's state (R106). -/
theorem illegalCommand_ledState (p : Port) (s : State) : (illegalCommand p s).led.state = s.led.state := by
  rcases illegalCommand_cases p s with ⟨l, -, ht⟩ | ⟨-, ht⟩ | ⟨-, ht⟩ <;> rw [ht]
  rfl

/-- START_LED is written to L_CMD, with OP 0x01 (R104). -/
theorem decode_startLed {p : Port} {w : Word} (h : decode p w = .ok .startLed) : p = .lCmd ∧ opField w = 0x01 := by
  cases p with
  | sCmd => exact absurd h (decode_sCmd_ne_startLed w)
  | lCmd =>
    refine ⟨rfl, BitVec.eq_of_toNat_eq (not_not.1 fun hop => ?_)⟩
    rw [decode_lCmd_of_illegal hop] at h
    cases h

/-- HOST changes the engine's state with a write of START_LED's word alone (R120, R121). -/
theorem hostStep_changes_ledState {d : Byte} {s t : State} (h : hostStep d s = .next t)
    (hs : t.led.state ≠ s.led.state) :
    ∃ w ops, s.program = .memWrite (s.config.baseAddr + Port.lCmd.offset) 4 w :: ops ∧ opField w = 0x01 := by
  rcases hostStep_cases d s t h with
    ⟨-, hled, -⟩ | ⟨-, -, -, -, hled, -⟩ | ⟨p, w, ops, i, hprog, hdec, hexec⟩ | ⟨p, ops, rfl⟩
  · exact absurd (congrArg Led.state hled) hs
  · exact absurd (congrArg Led.state hled) hs
  · by_cases hi : i = .startLed
    · subst hi
      obtain ⟨rfl, hop⟩ := decode_startLed hdec
      exact ⟨w, ops, hprog, hop⟩
    · exact absurd (congrArg Led.state (exec_led_of_sensor hi hexec)) hs
  · exact absurd (illegalCommand_ledState p _) hs

/-- Settles O46: only HOST can change the state, and from IDLE alone, by START_LED. -/
theorem ledStateLeftOnlyAsStated : Obligations.LedStateLeftOnlyAsStated := by
  intro s t a rest hsched hreset h
  obtain ⟨hin, ha⟩ := agentStep_of_step hsched h
  rcases agentStep_ledState hreset ha with hkept | ⟨d, rfl, hhost⟩
  · exact ⟨hkept.trans, hkept.trans, fun hidle hleft => absurd (hkept.trans hidle) hleft⟩
  · have hkept : s.led.state ≠ .idle → t.led.state = s.led.state :=
      (hostStep_effect (s := { s with schedule := rest }) hin hhost).led.state_kept
    refine ⟨fun hs => (hkept (by simp [hs])).trans hs, fun hs => (hkept (by simp [hs])).trans hs,
      fun hidle hleft => ?_⟩
    obtain ⟨w, ops, hprog, hop⟩ := hostStep_changes_ledState hhost fun hsame => hleft (hsame.trans hidle)
    exact ⟨d, w, ops, rfl, hprog, hop⟩

/-- The BTN step does not read the sensor engine (R136). -/
theorem btnStep_setSensor (level : Bool) (s : State) (e : Sensor) :
    btnStep level { s with sensor := e } = { btnStep level s with sensor := e } := by
  unfold btnStep pressHandler
  dsimp only
  split
  · split <;> rfl
  · rfl

/-- The BLINK tick does not read the sensor engine (R136). -/
theorem blinkTick_setSensor (s : State) (e : Sensor) :
    blinkTick { s with sensor := e } = { blinkTick s with sensor := e } := by
  unfold blinkTick
  dsimp only
  split <;> rfl

/-- A step that neither reads nor writes the sensor engine can be taken before a SENSOR step or after it. -/
theorem sensorStep_comm {f : State → State} (hf : ∀ s e, f { s with sensor := e } = { f s with sensor := e })
    {s : State} (hconfig : (f s).config = s.config) (d : BusDraw) : sensorStep d (f s) = f (sensorStep d s) := by
  have hkept : f s = { f s with sensor := s.sensor } := hf s s.sensor
  have hsensor : (f s).sensor = s.sensor := by rw [hkept]
  calc sensorStep d (f s)
      = { f s with sensor := stepSensor (f s).config d (f s).sensor } := rfl
    _ = { f s with sensor := stepSensor s.config d s.sensor } := by rw [hconfig, hsensor]
    _ = f (sensorStep d s) := (hf s _).symm

/-- Settles O47: each engine's steps read and write that engine alone. -/
theorem enginesAreIndependent : Obligations.EnginesAreIndependent := by
  intro s d level
  obtain ⟨hbtn, -⟩ := btnStep_frame level s
  obtain ⟨htick, -⟩ := blinkTick_frame s
  refine ⟨sensorStep_comm (btnStep_setSensor level) hbtn d, sensorStep_comm blinkTick_setSensor htick d,
    fun t h => ?_, fun i t => exec_led_of_sensor⟩
  obtain ⟨hsensor, -⟩ := execStartLed_frame s t h
  exact hsensor

end Sys2Proof.Machine
end

section
/-! PROOFS. The family 41_bus_register_access.md: the bus's reads (R151, R152), a command's accept step and its results
(R153 to R157), and READ_REG and WRITE_REG from acceptance to completion (R160, R170). -/

namespace Sys2Proof.Machine

/-! ## What a read stores -/

/-- Settles O26: the bytes taken from the answer are stored from entry 0 on, and a store reads back there and nowhere
else. -/
theorem receivedBytesArePlacedInOrder : Obligations.ReceivedBytesArePlacedInOrder := by
  intro e a n d hwf r
  have hcount : r.1 = min n d.data.length := List.length_take
  have hread (k : Nat) := Memory.read_writeBytes hwf 0 (d.data.take n) k
  refine ⟨hcount, Memory.writeBytes_wf hwf 0 _, fun k hk hn => ?_, fun k hk => ?_⟩
  · calc r.2.rxbuf.read k = (d.data.take n).getD k Memory.blank :=
          (hread k).trans (if_pos (by rw [List.length_take]; omega))
      _ = d.data[k] := by simp [hk, hn]
  · exact (hread k).trans (if_neg (by rw [List.length_take]; omega))

/-! ## The traffic of a step -/

/-- No host access makes bus traffic (R156). -/
theorem HostToSensor.busHistory {c : Config} {e e' : Sensor} (h : HostToSensor c e e') :
    e'.busHistory = e.busHistory := by
  cases h <;> rfl

/-- A SENSOR step makes no transaction, or one and then a command was running (R156). -/
theorem stepSensor_busHistory (c : Config) (d : BusDraw) (e : Sensor) :
    (stepSensor c d e).busHistory = e.busHistory ∨
      ∃ v, (stepSensor c d e).busHistory = e.busHistory ++ [v] ∧ e.busy = true := by
  cases hb : e.busy with
  | false => exact .inl (by rw [stepSensor_idle hb])
  | true =>
    rcases stepSensor_cases c d e hb with hon | hdone
    · obtain ⟨v, hv, -⟩ := hon.hist
      exact .inr ⟨v, hv, rfl⟩
    · exact .inl hdone.hist

/-- Every agent's step but SENSOR's leaves the bus history. -/
theorem agentStep_busHistory {a : AgentStep} {s t : State} (hin : s.config.inRange = true)
    (h : agentStep a s = .next t) :
    t.sensor.busHistory = s.sensor.busHistory ∨ ∃ d, a = .sensor d ∧ t = sensorStep d s := by
  cases a with
  | host d => exact .inl (hostStep_effect hin h).sensor.busHistory
  | sensor d =>
    cases h
    exact .inr ⟨d, rfl, rfl⟩
  | btn level =>
    cases h
    obtain ⟨-, hsensor, -⟩ := btnStep_frame level s
    exact .inl (by rw [hsensor])
  | blink =>
    cases h
    obtain ⟨-, hsensor, -⟩ := blinkTick_frame s
    exact .inl (by rw [hsensor])
  | reset tx rx st =>
    cases h
    exact .inl rfl

/-- Settles O54: a step is no step or one agent's, and only SENSOR's, of a running command, makes a transaction. -/
theorem onlySensorStepsMakeTraffic : Obligations.OnlySensorStepsMakeTraffic := by
  intro s t ht
  obtain ⟨hin, ⟨-, rfl⟩ | ⟨a, rest, hsched, ha⟩⟩ := step_next_cases ht
  · exact .inl rfl
  · rcases agentStep_busHistory (s := { s with schedule := rest }) hin ha with hkept | ⟨d, rfl, rfl⟩
    · exact .inl hkept
    · rcases stepSensor_busHistory s.config d s.sensor with hkept | ⟨v, hv, hb⟩
      · exact .inl hkept
      · exact .inr ⟨v, d, rest, hv, hsched, hb⟩

/-! ## What a step shows the host -/

/-- A step after which the command still runs leaves BUSY 1. -/
theorem StepsOn.busy {c : Config} {e e' : Sensor} (h : StepsOn c e e') : e'.busy = true := busy_iff.2 h.ctl

/-- A step after which the command still runs leaves S_STATUS (R157). -/
theorem StepsOn.sStatus {c : Config} {e e' : Sensor} (h : StepsOn c e e') (hb : e.busy = true) :
    sStatus c e' = sStatus c e := by
  simp only [Machine.sStatus, h.result, h.devNotFound, h.initialized, h.resolved, h.ovr, h.busy, hb]

/-- It leaves what the buffers' offsets read too: S_RXBUF reads any value while BUSY, and BUSY is 1 before it and after
it (R76, R157). -/
theorem StepsOn.readBuffers {c : Config} {e e' : Sensor} (h : StepsOn c e e') (hb : e.busy = true) (o : Nat)
    (d : Byte) : readBuffers e' o d = readBuffers e o d := by
  simp only [Machine.readBuffers, h.txbuf, h.busy, hb, if_true]

/-- It leaves what every offset of the window reads (R157). -/
theorem StepsOn.readRegister {s : State} {e' : Sensor} (h : StepsOn s.config s.sensor e')
    (hb : s.sensor.busy = true) (o : Nat) (d : Byte) :
    readRegister { s with sensor := e' } o d = readRegister s o d := by
  simp only [Machine.readRegister, h.sStatus hb, h.count, h.addr, h.temp16, h.acc16, h.readBuffers hb]

/-- Settles O22: a SENSOR step goes on or completes its command, and BUSY after it says which. -/
theorem resultsAppearAtCompletion : Obligations.ResultsAppearAtCompletion := by
  intro s a hb
  rcases stepSensor_cases s.config a s.sensor hb with hon | hdone
  · have hrun : (sensorStep a s).sensor.busy = true := hon.busy
    rw [hrun]
    exact ⟨fun _ => hon.readRegister hb, nofun⟩
  · have hended : (sensorStep a s).sensor.busy = false := busy_of_idle hdone.ctl
    rw [hended]
    exact ⟨nofun, fun _ => ⟨hdone.hist, hdone.result⟩⟩

/-! ## Accepted commands -/

/-- A command that meets no reject condition is latched (R155). -/
theorem issueSensor_latches {code : Option ResultCode} {s : State} (hidle : s.sensor.ctl = .idle)
    (hcode : code = none) (r : Running) : issueSensor code (beginRun r) s = acceptedAs r s := by
  rw [hcode, issueSensor_accept _ (busy_of_idle hidle)]
  rfl

/-- READ_REG's accept step (R155, R160). -/
theorem exec_readReg_accepted {s : State} {len : Half} (h : canTake s) (hres : s.sensor.resolved = true)
    (hl : 1 ≤ len.toNat) (hu : len.toNat ≤ 256) (reg : Byte) :
    exec (.readReg reg len) s = .next (acceptedAs (.readReg reg len .start) s) := by
  obtain ⟨hidle, hbus, hin⟩ := h
  obtain ⟨-, -, hrx, -⟩ := Config.fixed_of_inRange hin
  have hlen : ¬(len.toNat < 1 ∨ s.config.rxSize < len.toNat) := by omega
  have hcode : rejectCode s.config s.sensor (.readReg reg len) = none := by
    simp only [rejectCode, hbus, hres, hlen, reduceCtorEq, if_false]
  exact congrArg _ (issueSensor_latches hidle hcode _)

/-- The state when WRITE_REG has copied its register number and payload (R155). -/
def State.staged (reg : Byte) (len : Half) (s : State) : State :=
  { s with sensor := stage reg (s.sensor.txbuf.readBytes len.toNat) s.sensor }

/-- WRITE_REG's accept step, with its copy of the payload (R155, R170). -/
theorem exec_writeReg_accepted {s : State} {len : Half} (h : canTake s) (hres : s.sensor.resolved = true)
    (hu : len.toNat ≤ 255) (reg : Byte) :
    exec (.writeReg reg len) s = .next (acceptedAs (.writeReg reg len .start) (s.staged reg len)) := by
  obtain ⟨hidle, hbus, hin⟩ := h
  obtain ⟨-, hmax, -⟩ := Config.fixed_of_inRange hin
  have hlen : ¬s.config.maxWritePayload < len.toNat := by omega
  have hcode : rejectCode s.config s.sensor (.writeReg reg len) = none := by
    simp only [rejectCode, hbus, hres, hlen, reduceCtorEq, if_false]
  refine congrArg Host.Outcome.next ?_
  rw [hcode, issueSensor_accept _ (busy_of_idle hidle)]
  rfl

/-- Settles O20: each command's conditions rule out every reject, and what is not rejected is latched. -/
theorem acceptedCommandIsLatched : Obligations.AcceptedCommandIsLatched := by
  intro s reg len h
  have ⟨hidle, hbus, _⟩ := h
  have latched {i : Instr} (r : Running) (hcode : rejectCode s.config s.sensor i = none) :
      Host.Outcome.next (issueSensor (rejectCode s.config s.sensor i) (beginRun r) s) =
        (.next (acceptedAs r s) : Host.Outcome State Fault Refusal) :=
    congrArg _ (issueSensor_latches hidle hcode r)
  refine ⟨fun hres hl hu => exec_readReg_accepted h hres hl hu reg,
    fun hres hu => exec_writeReg_accepted h hres hu reg, fun hres => latched _ ?_, fun hini => latched _ ?_,
    fun hini => latched _ ?_, fun hini => latched _ ?_, fun hini => latched _ ?_⟩
  · simp [rejectCode, hbus, hres]
  all_goals simp [rejectCode, hbus, hini]

/-! ## READ_REG and WRITE_REG from acceptance to completion -/

/-- A register access's complete step (R157, R158): its count, and OK or SHORT by its own `ok`. -/
theorem complete_noteAccess (n : Nat) (ok : Bool) (e : Sensor) :
    complete (shortOrOk (!ok)) (noteAccess n ok e) =
      { e with
        lastCount := some n, shortLatch := e.shortLatch || !ok, count := BitVec.ofNat 16 n
        result := if ok then .ok else .short
        ctl := .idle } := by
  cases ok <;> rfl

/-- A read of `n` bytes is not short when the held write sent its byte and all `n` came (R158). -/
theorem readOk_min_one (n sent received : Nat) :
    readOk n (min sent 1) received = decide (1 ≤ sent ∧ received = n) := by
  rw [readOk, decide_min_one, Bool.decide_and]

/-- READ_REG's three steps: the held write, the read and the complete step (R160). -/
theorem sensorRun_readReg (c : Config) (reg : Byte) (len : Half) (w r x : BusDraw) {e : Sensor}
    (hctl : e.ctl = .run (.readReg reg len .start)) :
    let data := r.data.take len.toNat
    let ok := decide (1 ≤ w.sent ∧ data.length = len.toNat)
    sensorRun c [w, r, x] e =
      { e with
        lastCount := some data.length, shortLatch := e.shortLatch || !ok, count := BitVec.ofNat 16 data.length
        result := if ok then .ok else .short
        ctl := .idle
        rxbuf := e.rxbuf.writeBytes 0 data
        busHistory := e.busHistory ++
          [.bw e.addr [reg] false (min w.sent 1), .br e.addr len.toNat data.length data] } := by
  intro data ok
  have hheld : stepSensor c w e = regReadStart e.addr reg (.readReg reg len) w e := by
    rw [stepSensor, hctl]
    rfl
  have hok : readOk len.toNat (min w.sent 1) data.length = ok := readOk_min_one ..
  calc sensorRun c [w, r, x] e
      = complete (shortOrOk (!readOk len.toNat (min w.sent 1) data.length))
          (noteAccess data.length (readOk len.toNat (min w.sent 1) data.length)
            (regReadHeld e.addr len.toNat (min w.sent 1) (.readReg reg len) r
              (regReadStart e.addr reg (.readReg reg len) w e))) := by
        rw [sensorRun, hheld]
        rfl
    _ = _ := by
        rw [hok, complete_noteAccess]
        simp [regReadHeld, regReadStart, busRead, busWrite, data]

/-- Settles O25: the accept step, then the command's three steps. -/
theorem readRegReadsTheRegister : Obligations.ReadRegReadsTheRegister := by
  intro s reg len w r x h hres hl hu data ok
  refine ⟨_, exec_readReg_accepted h hres hl hu reg, ?_⟩
  rw [sensorSteps_eq, sensorRun_readReg _ reg len w r x rfl]
  obtain ⟨hidle, -⟩ := h
  simp [acceptedAs, hidle, data, ok]

/-- WRITE_REG's two steps: the released write of what is staged, and the complete step (R170). -/
theorem sensorRun_writeReg (c : Config) (reg : Byte) (len : Half) (w x : BusDraw) {e : Sensor}
    (hctl : e.ctl = .run (.writeReg reg len .start)) :
    let sent := min w.sent (1 + len.toNat)
    sensorRun c [w, x] e =
      { e with
        lastCount := some sent, shortLatch := e.shortLatch || decide (sent ≠ 1 + len.toNat)
        count := BitVec.ofNat 16 sent
        result := if sent = 1 + len.toNat then .ok else .short
        ctl := .idle
        busHistory := e.busHistory ++ [.bw e.addr (e.staging.readBytes (1 + len.toNat)) true sent] } := by
  intro sent
  have hsent : sent = min w.sent (e.staging.readBytes (1 + len.toNat)).length := by rw [Memory.readBytes_length]
  have hstart : stepSensor c w e =
      beginRun (.writeReg reg len (.done sent))
        (busWrite e.addr (e.staging.readBytes (1 + len.toNat)) true w e).2 := by
    rw [stepSensor, hctl, hsent]
    rfl
  calc sensorRun c [w, x] e
      = complete (shortOrOk (!writeOk len.toNat sent))
          (noteAccess sent (writeOk len.toNat sent)
            (busWrite e.addr (e.staging.readBytes (1 + len.toNat)) true w e).2) := by
        rw [sensorRun, hstart]
        rfl
    _ = _ := by
        rw [complete_noteAccess]
        simp [busWrite, writeOk, hsent]

/-- Settles O27: the accept step, then the command's two steps, which write the bytes just staged. -/
theorem writeRegWritesThePayload : Obligations.WriteRegWritesThePayload := by
  intro s reg len w x h hres hu hwf bytes sent
  have hstaged : (s.sensor.staging.writeBytes 0 bytes).readBytes (1 + len.toNat) = bytes := by
    have hlength : bytes.length = 1 + len.toNat := by
      rw [List.length_cons, Memory.readBytes_length, Nat.add_comm]
    rw [← hlength, Memory.readBytes_writeBytes hwf]
  refine ⟨_, exec_writeReg_accepted h hres hu reg, ?_⟩
  rw [sensorSteps_eq, sensorRun_writeReg _ reg len w x rfl]
  obtain ⟨hidle, -⟩ := h
  simp [acceptedAs, State.staged, stage, hstaged, hidle, bytes, sent]

end Sys2Proof.Machine
end

section
/-! PROOFS. The family 42_sensor_operations.md: discovery and initialisation (R180 to R187), the temperature (R189 to
R191), data-ready polling (R193 to R195), and the axes (R196 to R200). -/

namespace Sys2Proof.Machine

/-! ## The sample decodes -/

/-- The raw byte is read as signed, with the bias on it (R190). -/
theorem tempDecode_eq {c : Config} (hin : c.inRange = true) (raw : Byte) : tempDecode c raw = 25 + raw.toInt := by
  obtain ⟨_, _, _, _, _, hbias⟩ := Config.fixed_of_inRange hin
  rw [tempDecode, hbias, BitVec.toInt_eq_toNat_cond]
  split <;> split <;> omega

/-- Settles O32: R30's range is far inside 16 signed bits. -/
theorem temperatureDecodeIsExact : Obligations.TemperatureDecodeIsExact := by
  intro c raw hin
  have hrange := tempDecode_range hin raw
  exact ⟨(toInt_signed16 (by omega) (by omega)).trans (tempDecode_eq hin raw), hrange⟩

/-- The 14-bit decode is a division that rounds toward zero (R196): it shifts the magnitude, not the signed word. -/
theorem decode14_eq_tdiv (w : Half) : decode14 w = w.toInt.tdiv 4 := by
  have hsign : w.getLsbD 15 = decide (2 ^ 15 ≤ w.toNat) :=
    (BitVec.msb_eq_getLsbD_last w).symm.trans (BitVec.msb_eq_decide w)
  rw [decode14, BitVec.toNat_ushiftRight, BitVec.toNat_ushiftRight, Nat.shiftRight_eq_div_pow,
    Nat.shiftRight_eq_div_pow, hsign, BitVec.toInt_eq_toNat_cond]
  by_cases h : 2 ^ 15 ≤ w.toNat
  · have hmagnitude : (~~~w + 1).toNat = 2 ^ 16 - w.toNat := by bv_omega
    have hneg : ((w.toNat : Int) - (2 ^ 16 : Nat)) = -((2 ^ 16 - w.toNat : Nat) : Int) := by omega
    rw [if_pos (by simpa using h), if_neg (by omega), hmagnitude, hneg, Int.neg_tdiv]
    rfl
  · rw [if_neg (by simpa using h), if_pos (by omega)]
    rfl

/-- Settles O37: four times a sample is a 16-bit signed word, and the division takes the factor off again. -/
theorem decodeRoundsTowardZero : Obligations.DecodeRoundsTowardZero := by
  refine ⟨fun w => ?_, fun v hl hu => ?_⟩
  · obtain ⟨hl, hu⟩ := decode14_range w
    exact ⟨decode14_eq_tdiv w, hl, hu, toInt_signed16 (by omega) (by omega)⟩
  · have hword : (BitVec.ofInt 16 (v * 4)).toInt = v * 4 := toInt_signed16 (by omega) (by omega)
    rw [decode14_eq_tdiv, hword, Int.mul_tdiv_cancel v (by decide)]

/-! ## The shared steps -/

/-- The complete step, its count by R157's rule. -/
theorem complete_eq (code : ResultCode) (e : Sensor) :
    complete code e =
      { e with count := committedCount e.count e.lastCount, result := code, ctl := .idle } := by
  unfold complete committedCount
  cases e.lastCount <;> rfl

/-- The state when a command just accepted has taken SENSOR steps (R136): the rest of it is as before the command. -/
theorem sensorSteps_accepted {r : Running} {s : State} {ds : List BusDraw} {e : Sensor}
    (h : sensorRun s.config ds (acceptedAs r s).sensor = e) :
    sensorSteps ds (acceptedAs r s) = { s with sensor := e } := by
  rw [sensorSteps_eq, ← h]
  rfl

/-- The engine when a one-byte register read has been made and noted (R158), still at the point the read began at. -/
def Sensor.afterRead (a : Addr) (reg : Byte) (w r : BusDraw) (e : Sensor) : Sensor :=
  { e with
    rxbuf := e.rxbuf.writeBytes 0 (r.data.take 1)
    busHistory := e.busHistory ++ readEvents a reg w r
    lastCount := some (r.data.take 1).length
    shortLatch := e.shortLatch || (answered w r).isNone }

/-- The two transactions of a one-byte register read and the noting of their counts (R158). -/
theorem noteAccess_regRead (a : Addr) (reg : Byte) (at' : ReadPt → Running) (w r : BusDraw) (e : Sensor) :
    noteAccess (r.data.take 1).length (readOk 1 (min w.sent 1) (r.data.take 1).length)
        (regReadHeld a 1 (min w.sent 1) at' r (regReadStart a reg at' w e)) =
      beginRun (at' (.got (min w.sent 1) (r.data.take 1).length)) (e.afterRead a reg w r) := by
  rw [readOk_answered]
  simp [noteAccess, regReadHeld, regReadStart, busRead, busWrite, beginRun, Sensor.afterRead, readEvents]

/-- It keeps S_RXBUF canonical. -/
theorem Sensor.afterRead_wf {e : Sensor} (hwf : Memory.wf e.rxbuf) (a : Addr) (reg : Byte) (w r : BusDraw) :
    Memory.wf (e.afterRead a reg w r).rxbuf := Memory.writeBytes_wf hwf _ _

/-- A held write starts its read from any point of the command. -/
@[simp] theorem regReadStart_beginRun (a : Addr) (reg : Byte) (at' : ReadPt → Running) (d : BusDraw) (k : Running)
    (e : Sensor) : regReadStart a reg at' d (beginRun k e) = regReadStart a reg at' d e := rfl

/-! ## Discovery -/

/-- An identity read just made matches exactly if it answered WHO_AM_I_VALUE (R181). -/
theorem identityMatches_afterRead (c : Config) {e : Sensor} (hwf : Memory.wf e.rxbuf) (a : Addr) (reg : Byte)
    (w r : BusDraw) (k : Running) :
    identityMatches c (min w.sent 1) (r.data.take 1).length (beginRun k (e.afterRead a reg w r)) =
      decide (answered w r = some c.whoAmIValue) :=
  identityMatches_answered c hwf w r rfl

section

variable {c : Config} {at' : ResolvePt → Running} {return' : BusDraw → Addr → Bool → Sensor → Sensor} {e : Sensor}
  (hstep : ∀ p d e, e.ctl = .run (at' p) → stepSensor c d e = runResolve c at' (return' d) p d e)
  (hstart : ∀ d, stepSensor c d e = runResolve c at' (return' d) (.high .start) d e)
  (hwf : Memory.wf e.rxbuf)

include hstep hstart hwf

/-- `resolve` up to the high candidate's identity read, and what it does with it (R180, R181). -/
theorem sensorRun_resolveHigh (w r d : BusDraw) :
    let e' := beginRun (at' (.high (.got (min w.sent 1) (r.data.take 1).length)))
      (e.afterRead c.addrHigh c.regWhoAmI w r)
    sensorRun c [w, r, d] e =
      if answered w r = some c.whoAmIValue then return' d c.addrHigh false e'
      else regReadStart c.addrLow c.regWhoAmI (fun p => at' (.low p)) d (e.afterRead c.addrHigh c.regWhoAmI w r) := by
  simp only [sensorRun]
  rw [hstart, hstep (.high (.held (min w.sent 1))) r _ rfl,
    hstep (.high (.got (min w.sent 1) (r.data.take 1).length)) d _ rfl]
  simp only [runResolve, noteAccess_regRead, identityMatches_afterRead c hwf, decide_eq_true_eq,
    regReadStart_beginRun]

/-- `resolve` when the high candidate's identity read matches (R181): its two transactions alone. -/
theorem sensorRun_resolve_matched {w r : BusDraw} (h : answered w r = some c.whoAmIValue) :
    ∃ k, ∀ x, sensorRun c [w, r, x] e =
      return' x c.addrHigh false (beginRun k (e.afterRead c.addrHigh c.regWhoAmI w r)) :=
  ⟨_, fun x => (sensorRun_resolveHigh hstep hstart hwf w r x).trans (if_pos h)⟩

/-- `resolve` when it does not (R181, R182): the low candidate is read too and chosen, whether or not it matches. -/
theorem sensorRun_resolve_unmatched {w r : BusDraw} (h : answered w r ≠ some c.whoAmIValue) (w' r' : BusDraw) :
    ∃ k, ∀ x, sensorRun c [w, r, w', r', x] e =
      return' x c.addrLow (decide (answered w' r' ≠ some c.whoAmIValue))
        (beginRun k ((e.afterRead c.addrHigh c.regWhoAmI w r).afterRead c.addrLow c.regWhoAmI w' r')) := by
  have hhigh := (sensorRun_resolveHigh hstep hstart hwf w r w').trans (if_neg h)
  have hwf' := Sensor.afterRead_wf hwf c.addrHigh c.regWhoAmI w r
  refine ⟨at' (.low (.got (min w'.sent 1) (r'.data.take 1).length)), fun x => ?_⟩
  rw [show [w, r, w', r', x] = [w, r, w'] ++ [r', x] from rfl, sensorRun_append, hhigh]
  simp only [sensorRun]
  rw [hstep (.low (.held (min w'.sent 1))) r' _ rfl,
    hstep (.low (.got (min w'.sent 1) (r'.data.take 1).length)) x _ rfl]
  simp only [runResolve, noteAccess_regRead, identityMatches_afterRead c hwf', decide_not]

end

/-- A SENSOR step of RESOLVE_ADDR (R180). -/
theorem stepSensor_resolveAddr {c : Config} (p : ResolvePt) (d : BusDraw) (e : Sensor)
    (h : e.ctl = .run (.resolveAddr p)) :
    stepSensor c d e = runResolve c .resolveAddr completeResolve p d e := by
  rw [stepSensor, h]
  rfl

/-- Settles O28: the accept step, then `resolve` by what its first read answered, and the complete step. -/
theorem resolveAddrChoosesTheAddress : Obligations.ResolveAddrChoosesTheAddress := by
  intro s w r w' r' x hcan hres hwf c
  have ⟨hidle, _⟩ := hcan
  obtain ⟨-, -, haccept, -⟩ := acceptedCommandIsLatched s 0 0 hcan
  have hstart (d : BusDraw) := stepSensor_resolveAddr (c := c) (.high .start) d
    (acceptedAs (.resolveAddr (.high .start)) s).sensor rfl
  refine ⟨_, haccept hres, fun h => ?_, fun h => ?_⟩
  · obtain ⟨k, hrun⟩ := sensorRun_resolve_matched stepSensor_resolveAddr hstart hwf h
    rw [sensorSteps_accepted (hrun x)]
    simp [completeResolve, complete_eq, commitAddress, completionCode, shortOrOk, committedCount, Sensor.afterRead,
      beginRun, acceptedAs, readBuffer, hidle, h, answered_length h]
  · obtain ⟨k, hrun⟩ := sensorRun_resolve_unmatched stepSensor_resolveAddr hstart hwf h w' r'
    rw [sensorSteps_accepted (hrun x)]
    simp [completeResolve, complete_eq, commitAddress, completionCode, shortOrOk, committedCount, Sensor.afterRead,
      beginRun, acceptedAs, readBuffer, hidle]

/-! ## Initialisation -/

/-- A SENSOR step of INIT's resolution (R185). -/
theorem stepSensor_initResolving {c : Config} (p : ResolvePt) (d : BusDraw) (e : Sensor)
    (h : e.ctl = .run (.init (.resolving p))) :
    stepSensor c d e = runResolve c (fun p => .init (.resolving p))
      (fun a nf e => initNextWrite true a nf c.initWrites d e) p d e := by
  rw [stepSensor, h]
  rfl

/-- INIT's first step without an active address begins the resolution (R185). -/
theorem stepSensor_init_unresolved {c : Config} {e : Sensor} (h : e.ctl = .run (.init .start))
    (hres : e.resolved = false) (d : BusDraw) :
    stepSensor c d e = runResolve c (fun p => .init (.resolving p))
      (fun a nf e => initNextWrite true a nf c.initWrites d e) (.high .start) d e := by
  rw [stepSensor, h]
  simp only [runInit, hres, Bool.false_eq_true, if_false]

/-- With an active address it begins the writes (R185). -/
theorem stepSensor_init_resolved {c : Config} {e : Sensor} (h : e.ctl = .run (.init .start))
    (hres : e.resolved = true) (d : BusDraw) :
    stepSensor c d e = initNextWrite false e.addr false c.initWrites d e := by
  rw [stepSensor, h]
  simp only [runInit, hres, if_true]

/-- The engine when INIT's writes have been made and noted (R185, R158). -/
def Sensor.afterWrites (a : Addr) (writes : List (Byte × Byte)) (ws : List BusDraw) (e : Sensor) : Sensor :=
  { e with
    staging := initStaging e.staging writes
    busHistory := e.busHistory ++ initEvents a writes ws
    lastCount := lastSent e.lastCount ws
    shortLatch := e.shortLatch || someShort ws }

/-- INIT's writes and its complete step, once the step after `ds₀` begins them (R185). -/
theorem sensorRun_initWrites {c : Config} {ran : Bool} {a : Addr} {nf : Bool} {writes : List (Byte × Byte)}
    {ds₀ : List BusDraw} {e₀ e : Sensor}
    (hbegin : ∀ d, sensorRun c (ds₀ ++ [d]) e₀ = initNextWrite ran a nf writes d e)
    (hwf : Memory.wf e.staging) {ws : List BusDraw} (hlength : ws.length = writes.length) (x : BusDraw) :
    sensorRun c (ds₀ ++ ws ++ [x]) e₀ = completeInit ran a nf (e.afterWrites a writes ws) := by
  obtain ⟨d, ds, hds⟩ := List.exists_cons_of_ne_nil (List.append_ne_nil_of_right_ne_nil ws (List.cons_ne_nil x []))
  have hsplit : ds₀ ++ ws ++ [x] = ds₀ ++ [d] ++ ds := by
    rw [List.append_assoc, hds, List.append_assoc, List.singleton_append]
  rw [hsplit, sensorRun_append, hbegin]
  exact initNextWrite_run c ran a nf writes ws x d ds e hlength hwf hds

/-- Settles O29: the accept step, then the writes and the complete step, which commits no address. -/
theorem initWritesTheConfiguration : Obligations.InitWritesTheConfiguration := by
  intro s ws x hcan hini hres hlength hwf
  have ⟨hidle, _⟩ := hcan
  obtain ⟨-, -, -, haccept, -⟩ := acceptedCommandIsLatched s 0 0 hcan
  refine ⟨_, haccept hini, ?_⟩
  let e := (acceptedAs (.init .start) s).sensor
  have hbegin (d : BusDraw) : sensorRun s.config ([] ++ [d]) e = _ := stepSensor_init_resolved (e := e) rfl hres d
  have hrun := sensorRun_initWrites hbegin hwf hlength x
  rw [List.nil_append] at hrun
  rw [sensorSteps_accepted hrun]
  simp [completeInit, complete_eq, completionCode, shortOrOk, Sensor.afterWrites, acceptedAs, hidle, e]

/-- Settles O30: the accept step, then `resolve` by what its first read answered, the writes to the address it chose,
and the complete step, which commits that address. -/
theorem initResolvesThenWrites : Obligations.InitResolvesThenWrites := by
  intro s w r w' r' ws x hcan hini hres hlength hstaging hrxbuf c
  have ⟨hidle, _⟩ := hcan
  obtain ⟨-, -, -, haccept, -⟩ := acceptedCommandIsLatched s 0 0 hcan
  have hstart := stepSensor_init_unresolved (c := c) (e := (acceptedAs (.init .start) s).sensor) rfl hres
  refine ⟨_, haccept hini, fun h => ?_, fun h => ?_⟩
  · obtain ⟨k, hresolve⟩ := sensorRun_resolve_matched stepSensor_initResolving hstart hrxbuf h
    have hrun := sensorRun_initWrites (ds₀ := [w, r]) hresolve hstaging hlength x
    rw [sensorSteps_accepted hrun]
    simp [completeInit, complete_eq, commitAddress, completionCode, shortOrOk, Sensor.afterWrites, Sensor.afterRead,
      beginRun, acceptedAs, readBuffer, hidle, h, answered_length h, c]
  · obtain ⟨k, hresolve⟩ := sensorRun_resolve_unmatched stepSensor_initResolving hstart hrxbuf h w' r'
    have hrun := sensorRun_initWrites (ds₀ := [w, r, w', r']) hresolve hstaging hlength x
    rw [sensorSteps_accepted hrun]
    simp [completeInit, complete_eq, commitAddress, completionCode, shortOrOk, Sensor.afterWrites, Sensor.afterRead,
      beginRun, acceptedAs, readBuffer, hidle, c]

/-! ## The temperature -/

/-- READ_TEMP's three steps: the held write, the read and the complete step (R189). -/
theorem sensorRun_readTemp (c : Config) (w r x : BusDraw) {e : Sensor} (hctl : e.ctl = .run (.readTemp .start))
    (hwf : Memory.wf e.rxbuf) :
    let e' := e.afterRead e.addr c.regTemp w r
    sensorRun c [w, r, x] e =
      match answered w r with
      | some raw => complete .ok { e' with temp16 := signed16 (tempDecode c raw) }
      | none => complete .short e' := by
  intro e'
  have hheld : stepSensor c w e = regReadStart e.addr c.regTemp .readTemp w e := by
    rw [stepSensor, hctl]
    rfl
  let ok := readOk 1 (min w.sent 1) (r.data.take 1).length
  let e₁ := noteAccess (r.data.take 1).length ok
    (regReadHeld e.addr 1 (min w.sent 1) .readTemp r (regReadStart e.addr c.regTemp .readTemp w e))
  calc sensorRun c [w, r, x] e
      = complete (shortOrOk (!ok)) (if ok then { e₁ with temp16 := signed16 (tempDecode c (rx0 e₁)) } else e₁) := by
        rw [sensorRun, hheld]
        rfl
    _ = _ := by
        have he₁ : e₁ = beginRun (.readTemp (.got (min w.sent 1) (r.data.take 1).length)) e' := noteAccess_regRead ..
        have hok : ok = (answered w r).isSome := readOk_answered w r
        rw [he₁, hok]
        cases h : answered w r with
        | none => rfl
        | some raw =>
          have hrx : rx0 (beginRun (.readTemp (.got (min w.sent 1) (r.data.take 1).length)) e') = raw :=
            read_zero_answered hwf h
          rw [hrx]
          rfl

/-- Settles O31: the accept step, then the command's three steps, which commit `temp16` if the read was answered. -/
theorem readTempDecodesTheByte : Obligations.ReadTempDecodesTheByte := by
  intro s w r x hcan hini hwf received
  have ⟨hidle, _, hin⟩ := hcan
  obtain ⟨-, -, -, -, haccept, -⟩ := acceptedCommandIsLatched s 0 0 hcan
  obtain ⟨_, _, _, _, _, hbias⟩ := Config.fixed_of_inRange hin
  refine ⟨_, haccept hini, ?_⟩
  have hrun := sensorRun_readTemp s.config w r x (e := (acceptedAs (.readTemp .start) s).sensor) rfl hwf
  rw [sensorSteps_accepted hrun]
  cases h : answered w r with
  | none => simp [complete_eq, committedCount, Sensor.afterRead, acceptedAs, readBuffer, hidle, h, received]
  | some raw =>
    simp [complete_eq, committedCount, Sensor.afterRead, acceptedAs, readBuffer, hidle, h, received, tempDecode, hbias,
      signed16, apply_ite]

/-! ## Data-ready polling -/

/-- A SENSOR step of AWAIT_DRDY (R193). -/
theorem stepSensor_awaitDrdy {c : Config} (p : ReadPt) (d : BusDraw) (e : Sensor)
    (h : e.ctl = .run (.awaitDrdy p)) :
    stepSensor c d e =
      runAwait c .awaitDrdy (fun e => complete (shortOrOk e.shortLatch) e) (complete .timeout) p d e := by
  rw [stepSensor, h]
  rfl

/-- A SENSOR step of READ_MOTION while it polls (R197). -/
theorem stepSensor_motionAwait {c : Config} (p : ReadPt) (d : BusDraw) (e : Sensor)
    (h : e.ctl = .run (.readMotion (.await p))) :
    stepSensor c d e = runAwait c (fun p => .readMotion (.await p)) (motionAxis c .x noAxes d) (complete .timeout)
      p d e := by
  rw [stepSensor, h]
  rfl

/-- A poll that sees data-ready received its byte (R195). -/
theorem length_of_sawReady {c : Config} {p : BusDraw × BusDraw} (h : sawReady c p = true) :
    (p.2.data.take 1).length = 1 := by
  obtain ⟨b, hb⟩ := answered_of_ready h
  exact answered_length hb

/-- It was not short: the earlier polls alone can have been. -/
theorem any_pollShort_of_sawReady {c : Config} {last : BusDraw × BusDraw} (h : sawReady c last = true)
    (polls : List (BusDraw × BusDraw)) : (polls ++ [last]).any pollShort = polls.any pollShort := by
  obtain ⟨b, hb⟩ := answered_of_ready h
  simp [pollShort, hb]

/-- The engine when polls have been made and noted (R193), still at the point the first began at. -/
def Sensor.afterPolls (c : Config) (polls : List (BusDraw × BusDraw)) (last : BusDraw × BusDraw) (e : Sensor) :
    Sensor :=
  { e with
    rxbuf := readBuffer e.rxbuf (polls ++ [last])
    busHistory := e.busHistory ++ pollEvents c e.addr (polls ++ [last])
    pollN := pollCount (polls.length + 1)
    lastCount := some (last.2.data.take 1).length
    shortLatch := e.shortLatch || (polls ++ [last]).any pollShort }

section

variable {c : Config} {at' : ReadPt → Running} {ready : BusDraw → Sensor → Sensor} {timeout : Sensor → Sensor}
  {e : Sensor} {polls : List (BusDraw × BusDraw)} {last : BusDraw × BusDraw}
  (hstep : ∀ p d e, e.ctl = .run (at' p) → stepSensor c d e = runAwait c at' (ready d) timeout p d e)
  (hctl : e.ctl = .run (at' .start)) (hwf : Memory.wf e.rxbuf) (hcount : e.pollN = 0)
  (hpolls : ∀ p ∈ polls, sawReady c p = false)

include hstep hctl hwf hcount hpolls

/-- `await` left by the poll that sees data-ready (R193). -/
theorem sensorRun_await_ready (hlimit : ∀ l, c.pollLimit = some l → polls.length < l)
    (hlast : sawReady c last = true) (x : BusDraw) :
    ∃ k, sensorRun c (pollAnswers (polls ++ [last]) ++ [x]) e =
      ready x { e.afterPolls c polls last with ctl := k } := by
  obtain ⟨k, hready, -⟩ := runAwait_ends c at' ready timeout hstep last polls e x hctl hwf hcount hpolls hlimit
  exact ⟨k, hready hlast⟩

/-- `await` left by the last poll POLL_LIMIT allows (R193). -/
theorem sensorRun_await_timeout (hin : c.inRange = true) (hlimit : c.pollLimit = some (polls ++ [last]).length)
    (hlast : sawReady c last = false) (x : BusDraw) :
    ∃ k, sensorRun c (pollAnswers (polls ++ [last]) ++ [x]) e =
      timeout { e.afterPolls c polls last with ctl := k } := by
  obtain ⟨⟨-, -, -, hbound⟩, -⟩ := (Config.inRange_iff c).1 hin
  obtain ⟨-, hmax⟩ := hbound _ hlimit
  rw [List.length_append, List.length_singleton] at hlimit hmax
  have hbelow : ∀ l, c.pollLimit = some l → polls.length < l := by
    intro l hl
    rw [hlimit, Option.some.injEq] at hl
    omega
  obtain ⟨k, -, htimeout⟩ := runAwait_ends c at' ready timeout hstep last polls e x hctl hwf hcount hpolls hbelow
  exact ⟨k, htimeout hlast hlimit hmax⟩

end

/-- Settles O33: the accept step, then `await` left by the ready poll, and the complete step. -/
theorem awaitDrdyEndsAtTheReadyPoll : Obligations.AwaitDrdyEndsAtTheReadyPoll := by
  intro s polls last x hcan hini _ hwf hpolls hlast hlimit all
  have ⟨hidle, _⟩ := hcan
  obtain ⟨-, -, -, -, -, haccept, -⟩ := acceptedCommandIsLatched s 0 0 hcan
  refine ⟨_, haccept hini, ?_⟩
  obtain ⟨k, hrun⟩ := sensorRun_await_ready stepSensor_awaitDrdy
    (e := (acceptedAs (.awaitDrdy .start) s).sensor) rfl hwf rfl hpolls hlimit hlast x
  rw [sensorSteps_accepted hrun]
  simp only [complete_eq, committedCount, shortOrOk, Sensor.afterPolls, pollCount, acceptedAs, hidle, Bool.false_or,
    any_pollShort_of_sawReady hlast, length_of_sawReady hlast, all, List.length_append, List.length_singleton]
  rfl

/-- Settles O34: the accept step leaves either command at the start of `await`, which the last poll ends. -/
theorem boundedPollsTimeOut : Obligations.BoundedPollsTimeOut := by
  intro s polls last x hcan hini hin hwf all hpolls hlimit received final
  have ⟨hidle, _⟩ := hcan
  obtain ⟨-, -, -, -, -, hawait, hmotion⟩ := acceptedCommandIsLatched s 0 0 hcan
  obtain ⟨⟨-, -, -, hbound⟩, -⟩ := (Config.inRange_iff s.config).1 hin
  obtain ⟨-, hmax⟩ := hbound _ hlimit
  have hlast := hpolls last (by simp [all])
  have hearlier : ∀ p ∈ polls, sawReady s.config p = false := fun p hp => hpolls p (by simp [all, hp])
  have hcount : pollCount (polls.length + 1) = BitVec.ofNat 32 all.length := by
    rw [← Nat.min_eq_left hmax, pollCount, List.length_append, List.length_singleton]
  have hends {at' : ReadPt → Running} {ready : BusDraw → Sensor → Sensor} (hstep : ∀ p d e, e.ctl = .run (at' p) →
      stepSensor s.config d e = runAwait s.config at' (ready d) (complete .timeout) p d e) :
      sensorSteps (pollAnswers all ++ [x]) (acceptedAs (at' .start) s) = final := by
    obtain ⟨k, hrun⟩ := sensorRun_await_timeout hstep (e := (acceptedAs (at' .start) s).sensor) rfl hwf rfl hearlier
      hin hlimit hlast x
    rw [sensorSteps_accepted hrun]
    simp only [complete_eq, committedCount, Sensor.afterPolls, hcount, acceptedAs, Bool.false_or, hidle, final, all,
      received]
  exact ⟨⟨_, hawait hini, hends stepSensor_awaitDrdy⟩, ⟨_, hmotion hini, hends stepSensor_motionAwait⟩⟩

/-- Settles O35: the accept step leaves either command at the start of `await`, which unbounded polling never leaves. -/
theorem unboundedPollingHangs : Obligations.UnboundedPollingHangs := by
  intro s polls next hcan hini hlimit hwf hpolls c a answers traffic
  obtain ⟨-, -, -, -, -, hawait, hmotion⟩ := acceptedCommandIsLatched s 0 0 hcan
  have hhangs {at' : ReadPt → Running} {ready : BusDraw → Sensor → Sensor} (hstep : ∀ p d e, e.ctl = .run (at' p) →
      stepSensor c d e = runAwait c at' (ready d) (complete .timeout) p d e) :
      (sensorSteps answers (acceptedAs (at' .start) s)).sensor.busy = true ∧
        (sensorSteps answers (acceptedAs (at' .start) s)).sensor.busHistory = traffic := by
    obtain ⟨p, hctl, hhistory⟩ := runAwait_hangs c at' ready _ hstep hlimit next polls
      (acceptedAs (at' .start) s).sensor .start rfl nofun nofun hwf hpolls
    rw [sensorSteps_accepted rfl]
    exact ⟨busy_of_run hctl, hhistory⟩
  exact ⟨⟨_, hawait hini, hhangs stepSensor_awaitDrdy⟩, ⟨_, hmotion hini, hhangs stepSensor_motionAwait⟩⟩

/-! ## The axes -/

/-- What an axis holds after its two reads (R197, R199): the decode of its word, or what it held, if one was short. -/
def axisAfter (lo hi : BusDraw × BusDraw) (old : Half) : Half :=
  match answered lo.1 lo.2, answered hi.1 hi.2 with
  | some l, some h => BitVec.ofInt 16 (decode14 (BitVec.ofNat 16 (h.toNat * 256 + l.toNat)))
  | _, _ => old

/-- What READ_MOTION holds back for an axis until its complete step (R197). -/
def axisRead (lo hi : BusDraw × BusDraw) : Option Half :=
  match answered lo.1 lo.2, answered hi.1 hi.2 with
  | some l, some h => some (signed16 (decode14 (sampleWord h l)))
  | _, _ => none

/-- The complete step commits what is held back, if anything is (R199). -/
theorem getD_axisRead (lo hi : BusDraw × BusDraw) (old : Half) : (axisRead lo hi).getD old = axisAfter lo hi old := by
  unfold axisRead axisAfter
  cases answered lo.1 lo.2 with
  | none => rfl
  | some l =>
    cases answered hi.1 hi.2 with
    | none => rfl
    | some h => exact congrArg (fun w => signed16 (decode14 w)) (sampleWord_eq h l)

/-- Where READ_MOTION goes from a decoded axis (R198): to the next one, or to its complete step. -/
def continueMotion (c : Config) (axis : Axis) (new : Axes (Option Half)) (d : BusDraw) (e : Sensor) : Sensor :=
  match axis.next with
  | some next => motionAxis c next new d e
  | none => completeMotion new e

/-- It does not depend on the point it is taken from. -/
theorem continueMotion_ctl (c : Config) (axis : Axis) (new : Axes (Option Half)) (d : BusDraw) (e : Sensor) (k : Ctl) :
    continueMotion c axis new d { e with ctl := k } = continueMotion c axis new d e := by
  cases axis <;> rfl

/-- The engine when an axis has been read (R198), still at the point its first read began at. -/
def Sensor.afterAxis (c : Config) (axis : Axis) (lo hi : BusDraw × BusDraw) (e : Sensor) : Sensor :=
  (e.afterRead e.addr (lowRegister c axis) lo.1 lo.2).afterRead e.addr (highRegister c axis) hi.1 hi.2

/-- It keeps S_RXBUF canonical. -/
theorem Sensor.afterAxis_wf {e : Sensor} (hwf : Memory.wf e.rxbuf) (c : Config) (axis : Axis)
    (lo hi : BusDraw × BusDraw) : Memory.wf (e.afterAxis c axis lo hi).rxbuf :=
  Sensor.afterRead_wf (Sensor.afterRead_wf hwf _ _ _ _) _ _ _ _

/-- An axis that READ_MOTION holds nothing back for yet: its four transactions and the step after them (R197, R198). -/
theorem sensorRun_motionAxis (c : Config) {axis : Axis} {new : Axes (Option Half)} (hnew : new.get axis = none)
    (lo hi : BusDraw × BusDraw) {e : Sensor} (hwf : Memory.wf e.rxbuf) (x : BusDraw) :
    sensorRun c [lo.2, hi.1, hi.2, x] (motionAxis c axis new lo.1 e) =
      continueMotion c axis (new.set (axisRead lo hi) axis) x (e.afterAxis c axis lo hi) := by
  have hkeep : new = new.set none axis := by
    rw [← hnew]
    cases axis <;> rfl
  have hset : (match answered lo.1 lo.2, answered hi.1 hi.2 with
      | some l, some h => new.set (some (signed16 (decode14 (sampleWord h l)))) axis
      | _, _ => new) = new.set (axisRead lo hi) axis := by
    unfold axisRead
    cases answered lo.1 lo.2 with
    | none => exact hkeep
    | some l =>
      cases answered hi.1 hi.2 with
      | none => exact hkeep
      | some h => rfl
  obtain ⟨k, hrun⟩ := motionAxis_run c axis new lo hi e x hwf
  rw [← continueMotion_ctl c axis _ x _ k]
  exact hrun.trans (congrArg (fun n => continueMotion c axis n x { e.afterAxis c axis lo hi with ctl := k }) hset)

/-- The three axes: twelve transactions and the complete step (R198). -/
theorem sensorRun_motionAxes (c : Config) (xl xh yl yh zl zh : BusDraw × BusDraw) (x : BusDraw) {e : Sensor}
    (hwf : Memory.wf e.rxbuf) :
    sensorRun c [xl.2, xh.1, xh.2, yl.1, yl.2, yh.1, yh.2, zl.1, zl.2, zh.1, zh.2, x]
        (motionAxis c .x noAxes xl.1 e) =
      completeMotion { x := axisRead xl xh, y := axisRead yl yh, z := axisRead zl zh }
        (((e.afterAxis c .x xl xh).afterAxis c .y yl yh).afterAxis c .z zl zh) := by
  have hx := Sensor.afterAxis_wf hwf c .x xl xh
  have hy := Sensor.afterAxis_wf hx c .y yl yh
  calc sensorRun c [xl.2, xh.1, xh.2, yl.1, yl.2, yh.1, yh.2, zl.1, zl.2, zh.1, zh.2, x] (motionAxis c .x noAxes xl.1 e)
      = sensorRun c [zl.2, zh.1, zh.2, x] (sensorRun c [yl.2, yh.1, yh.2, zl.1]
          (sensorRun c [xl.2, xh.1, xh.2, yl.1] (motionAxis c .x noAxes xl.1 e))) := rfl
    _ = sensorRun c [zl.2, zh.1, zh.2, x] (sensorRun c [yl.2, yh.1, yh.2, zl.1]
          (motionAxis c .y (noAxes.set (axisRead xl xh) .x) yl.1 (e.afterAxis c .x xl xh))) := by
        rw [sensorRun_motionAxis c rfl xl xh hwf]
        rfl
    _ = sensorRun c [zl.2, zh.1, zh.2, x] (motionAxis c .z ((noAxes.set (axisRead xl xh) .x).set (axisRead yl yh) .y)
          zl.1 ((e.afterAxis c .x xl xh).afterAxis c .y yl yh)) := by
        rw [sensorRun_motionAxis c rfl yl yh hx]
        rfl
    _ = _ := by
        rw [sensorRun_motionAxis c rfl zl zh hy]
        rfl

/-- Settles O36: the accept step, then `await` left by the ready poll, the three axes, and the complete step. -/
theorem readMotionReadsTheAxes : Obligations.ReadMotionReadsTheAxes := by
  intro s polls last xl xh yl yh zl zh x hcan hini _ hwf hpolls hlast hlimit c a all axes axis short received
  have ⟨hidle, _⟩ := hcan
  obtain ⟨-, -, -, -, -, -, haccept⟩ := acceptedCommandIsLatched s 0 0 hcan
  refine ⟨_, haccept hini, ?_⟩
  let e := (acceptedAs (.readMotion (.await .start)) s).sensor
  obtain ⟨k, hawait⟩ := sensorRun_await_ready stepSensor_motionAwait (e := e) rfl hwf rfl hpolls hlimit hlast xl.1
  have hpolled : Memory.wf { e.afterPolls c polls last with ctl := k }.rxbuf := readBuffer_wf hwf _
  have hanswers : pollAnswers (all ++ axes) ++ [x] = (pollAnswers all ++ [xl.1]) ++
      [xl.2, xh.1, xh.2, yl.1, yl.2, yh.1, yh.2, zl.1, zl.2, zh.1, zh.2, x] := by
    rw [pollAnswers_append, List.append_assoc, List.append_assoc]
    rfl
  have hrun := (congrArg (sensorRun c _) hawait).trans (sensorRun_motionAxes c xl xh yl yh zl zh x hpolled)
  rw [← sensorRun_append, ← hanswers] at hrun
  rw [sensorSteps_accepted hrun]
  have hshort : ((polls ++ [last]).any pollShort || (answered xl.1 xl.2).isNone || (answered xh.1 xh.2).isNone ||
      (answered yl.1 yl.2).isNone || (answered yh.1 yh.2).isNone || (answered zl.1 zl.2).isNone ||
      (answered zh.1 zh.2).isNone) = short := by
    rw [any_pollShort_of_sawReady hlast]
    simp [short, axes, pollShort, Bool.or_assoc]
  have hcount : pollCount (polls.length + 1) = BitVec.ofNat 32 (min all.length (2 ^ 32 - 1)) := by
    rw [pollCount, List.length_append, List.length_singleton]
  simp only [completeMotion, getD_axisRead, complete_eq, committedCount, shortOrOk, Sensor.afterAxis, Sensor.afterRead,
    Sensor.afterPolls, lowRegister, highRegister, acceptedAs, hidle, hcount, Bool.false_or, hshort,
    readBuffer_append _ all axes, List.append_assoc, e]
  rfl

end Sys2Proof.Machine
end

section
/-! PROOFS. The family 60_exceptions.md: rejected commands (R221, R222), the block without its bus (R224), and the
diagnostic port's events (R233). -/

namespace Sys2Proof.Machine

/-! ## Rejected commands -/

/-- Not while BUSY, a sensor command whose first failing condition is not FATAL's is rejected with its code, and reports
nothing (R221, R222). -/
theorem exec_rejected {i : Instr} {s : State} {code : ResultCode} (hi : i ≠ .startLed) (hb : s.sensor.busy = false)
    (hcode : rejectCode s.config s.sensor i = some code) (hfatal : code ≠ .fatal) :
    exec i s = .next (rejectedWith code s) := by
  obtain ⟨f, hissue⟩ := exec_sensor_issue hi s
  rw [hissue, hcode, issueSensor_reject f hb hfatal]

/-- Settles O19: with the bus there, the conditions given make the code `rejectCode` picks SEQ or ARG. -/
theorem rejectConditionsInOrder : Obligations.RejectConditionsInOrder := by
  intro s reg len ⟨hidle, hbus, hin⟩
  obtain ⟨-, hmax, hrx, -⟩ := Config.fixed_of_inRange hin
  have hb := busy_of_idle hidle
  refine ⟨fun hres => exec_rejected nofun hb ?_ nofun, fun hres hlen => exec_rejected nofun hb ?_ nofun,
    fun hres => exec_rejected nofun hb ?_ nofun, fun hres hlen => exec_rejected nofun hb ?_ nofun,
    fun hres => exec_rejected nofun hb ?_ nofun, fun hini => exec_rejected nofun hb ?_ nofun,
    fun hini => exec_rejected nofun hb ?_ nofun, fun hini => exec_rejected nofun hb ?_ nofun,
    fun hini => exec_rejected nofun hb ?_ nofun⟩
  case refine_2 =>
    rw [← hrx] at hlen
    simp only [rejectCode, hbus, hres, hlen, reduceCtorEq, if_false, if_true]
  case refine_4 =>
    rw [← hmax] at hlen
    simp only [rejectCode, hbus, hres, hlen, reduceCtorEq, if_false, if_true]
  case refine_1 | refine_3 | refine_5 => simp [rejectCode, hbus, hres]
  all_goals simp [rejectCode, hbus, hini]

/-! ## The block without its bus -/

/-- BUS_AVAILABLE is the first condition: no other is looked at without the bus (R222, R224). -/
theorem rejectCode_of_unavailable {c : Config} (h : c.busAvailable = false) (e : Sensor) (i : Instr) :
    rejectCode c e i = some .fatal := if_pos h

/-- Without the bus no command runs (R224). -/
theorem SensorInv.not_busy_of_unavailable {c : Config} {e : Sensor} (h : SensorInv c e)
    (hbus : c.busAvailable = false) : e.busy = false :=
  Bool.eq_false_iff.2 fun hb => by simp [h.busyAvailable hb] at hbus

/-- S_STATUS.FATAL reflects the strap (R27). -/
theorem readRegister_fatal (s : State) (d : Byte) : (readRegister s 0x004 d).getLsbD 5 = !s.config.busAvailable := by
  obtain ⟨-, -, -, -, hfatal⟩ := sStatus_flags s.config s.sensor
  exact hfatal

/-- Settles O21: the invariant leaves no command running without the bus, so a write is rejected FATAL and no SENSOR step
makes a transaction. -/
theorem fatalBusIsReportedOnce : Obligations.FatalBusIsReportedOnce := by
  intro s hinv hbus
  have hb : s.sensor.busy = false := hinv.sensor.not_busy_of_unavailable hbus
  refine ⟨fun i hi => ?_, fun d => by rw [readRegister_fatal, hbus]; rfl, fun t ht => ?_⟩
  · obtain ⟨f, hissue⟩ := exec_sensor_issue hi s
    rw [hissue, rejectCode_of_unavailable hbus, issueSensor_fatal f hb]
  · obtain hkept | ⟨-, -, -, -, -, hrun⟩ := onlySensorStepsMakeTraffic s t ht
    · exact hkept
    · rw [hb] at hrun
      cases hrun

/-! ## The diagnostic port's events -/

/-- The first FATAL reject, with its report (R224). -/
def ReportsFatalBus (s t : State) : Prop :=
  s.sensor.fatalReported = false ∧ t.sensor.fatalReported = true ∧ t.sensor.result = .fatal ∧
    t.diag = s.diag ++ [{ kind := .fatalBus, value := 0 }]

/-- The LED engine's way to FATAL, with its report (R225). -/
def ReportsFatalIrq (s t : State) : Prop :=
  s.led.state = .idle ∧ t.led.state = .fatal ∧ t.diag = s.diag ++ [{ kind := .fatalIrq, value := 0 }]

/-- A qualifying press while RUNNING, with its report (R128). -/
def ReportsPattern (s t : State) : Prop :=
  s.led.btnQ = false ∧ s.led.state = .running ∧ t.led.debounce.toNat % 2 = 0 ∧
    t.diag = s.diag ++ [{ kind := .pattern, value := t.led.pattern }]

/-- A sensor command reports FATAL_BUS or nothing (R224). -/
theorem exec_sensor_reports {i : Instr} {s t : State} (hi : i ≠ .startLed) (hin : s.config.inRange = true)
    (h : exec i s = .next t) : t.diag = s.diag ∨ ReportsFatalBus s t := by
  rcases exec_sensor_cases hi hin h with ⟨-, rfl⟩ | ⟨-, ⟨_, -, rfl⟩ | ⟨-, rfl⟩ | ⟨-, _, _, -, rfl⟩⟩
  case inl | inr.inl | inr.inr.inr => exact .inl rfl
  case inr.inr.inl =>
    cases hrep : s.sensor.fatalReported with
    | true => exact .inl rfl
    | false => exact .inr ⟨hrep, rfl, rfl, rfl⟩

/-- START_LED reports FATAL_IRQ or nothing (R225). -/
theorem execStartLed_reports {s t : State} (h : exec .startLed s = .next t) :
    t.diag = s.diag ∨ ReportsFatalIrq s t := by
  obtain ⟨-, -, ⟨-, -, -, hkept⟩ | ⟨hidle, -, hled, hreport⟩ | ⟨-, -, hkept⟩ | ⟨-, -, hkept⟩⟩ := execStartLed_cases h
  case inr.inl => exact .inr ⟨hidle, by rw [hled], hreport⟩
  all_goals exact .inl hkept

/-- A word that spells no command reports nothing (R106). -/
theorem illegalCommand_diag (p : Port) (s : State) : (illegalCommand p s).diag = s.diag := by
  rcases illegalCommand_cases p s with ⟨l, -, ht⟩ | ⟨-, ht⟩ | ⟨-, ht⟩ <;> rw [ht]
  rfl

/-- HOST's step reports what its command reports, and nothing else (R233). -/
theorem hostStep_reports {d : Byte} {s t : State} (hin : s.config.inRange = true) (h : hostStep d s = .next t) :
    t.diag = s.diag ∨ ReportsFatalIrq s t ∨ ReportsFatalBus s t := by
  rcases hostStep_cases d s t h with
    ⟨-, -, hkept, -⟩ | ⟨_, _, -, -, -, hkept, -⟩ | ⟨_, _, ops, i, -, -, hexec⟩ | ⟨p, ops, rfl⟩
  · exact .inl hkept
  · exact .inl hkept
  · by_cases hi : i = .startLed
    · subst hi
      exact (execStartLed_reports hexec).imp_right .inl
    · exact (exec_sensor_reports (s := { s with program := ops }) hi hin hexec).imp_right .inr
  · exact .inl (illegalCommand_diag p _)

/-- The press handler reports PATTERN at an even count of raw edges, or nothing (R127, R128). -/
theorem pressHandler_reports (s : State) : (pressHandler s).diag = s.diag ∨
    (pressHandler s).led.debounce.toNat % 2 = 0 ∧
      (pressHandler s).diag = s.diag ++ [{ kind := .pattern, value := (pressHandler s).led.pattern }] := by
  rcases Nat.mod_two_eq_zero_or_one (nextDebounce s.config s.led.debounce).toNat with heven | hodd
  · rw [pressHandler_of_even heven]
    exact .inr ⟨heven, rfl⟩
  · rw [pressHandler_of_odd hodd]
    exact .inl rfl

/-- A BTN step reports PATTERN, at a raw edge while RUNNING, or nothing (R123, R128). -/
theorem btnStep_reports (level : Bool) (s : State) :
    (btnStep level s).diag = s.diag ∨ level = true ∧ ReportsPattern s (btnStep level s) := by
  by_cases hcounted : (s.led.btnQ = false ∧ level = true) ∧ s.led.state = .running
  · obtain ⟨hedge, hs⟩ := hcounted
    rw [btnStep_of_counted hedge hs]
    exact (pressHandler_reports _).imp_right fun hpress => ⟨hedge.2, hedge.1, hs, hpress⟩
  · rw [btnStep_of_not_counted (not_and_or.1 hcounted)]
    exact .inl rfl

/-- Settles O55, agent by agent: BTN reports a press, HOST's commands the two FATALs, and no other agent anything. -/
theorem diagnosticEventsAreTheThree : Obligations.DiagnosticEventsAreTheThree := by
  intro s t ht
  obtain ⟨hin, ⟨-, rfl⟩ | ⟨a, rest, hsched, ha⟩⟩ := step_next_cases ht
  · exact .inl rfl
  · cases a with
    | host d => exact (hostStep_reports (s := { s with schedule := rest }) hin ha).imp_right .inr
    | sensor d =>
      cases ha
      exact .inl rfl
    | btn level =>
      cases ha
      rcases btnStep_reports level { s with schedule := rest } with hkept | ⟨rfl, hq, hs, heven, hreport⟩
      · exact .inl hkept
      · exact .inr (.inl ⟨rest, hsched, hq, hs, heven, hreport⟩)
    | blink =>
      cases ha
      obtain ⟨-, -, -, -, -, -, hkept, -⟩ := blinkTick_frame { s with schedule := rest }
      exact .inl hkept
    | reset tx rx st =>
      cases ha
      exact .inl rfl

end Sys2Proof.Machine
end

section
/-! PROOFS. The family 70_reset_and_hazards.md: what a reset leaves (R250, R252, R253), and that a run of one command
ends if the bus answers (R272). -/

namespace Sys2Proof.Machine

/-! ## Reset -/

/-- S_STATUS after a reset: only FATAL can be 1, and it reflects the strap (R27, R50). -/
theorem sStatus_afterReset (c : Config) (tx rx staging : Memory) (history : List BusEvent) :
    sStatus c (Sensor.afterReset tx rx staging history) = if c.busAvailable then 0x00000000 else 0x00000020 := by
  simp only [sStatus, Sensor.afterReset, Sensor.busy]
  cases c.busAvailable <;> decide

/-- L_STATUS after a reset: only BTN_Q is 1 (R50). -/
theorem lStatus_afterReset : lStatus Led.afterReset = 0x00000020 := by decide

/-- Settles O48: the registers and buffers by the reset values themselves, and the status words from those. -/
theorem resetGivesTheResetValues : Obligations.ResetGivesTheResetValues := by
  intro s tx rx st d hin
  obtain ⟨hstaging, -, hrx, -⟩ := Config.fixed_of_inRange hin
  exact ⟨rfl, rfl, fun i h hi => Memory.drawn_read h hi, fun i h hi => Memory.drawn_read h (hrx ▸ hi),
    fun i h hi => Memory.drawn_read h (hstaging ▸ hi), rfl, sStatus_afterReset .., lStatus_afterReset⟩

/-! ## How many SENSOR steps a command has left -/

/-- The transactions a register read has still to make (R158). -/
def readLeft : ReadPt → Nat
  | .start => 2
  | .held _ => 1
  | .got _ _ => 0

/-- The SENSOR steps to the end of a resolution at most, the step that ends it among them: the first candidate may fail
(R180). -/
def resolveLeft : ResolvePt → Nat
  | .high p => readLeft p + 3
  | .low p => readLeft p + 1

/-- The SENSOR steps to the end of `await` at most, the step that ends it among them, after `polls` of at most `limit`
polls (R193). -/
def awaitLeft (limit polls : Nat) (p : ReadPt) : Nat := readLeft p + 2 * (limit - 1 - polls) + 1

/-- The transactions READ_MOTION makes after an axis (R198). -/
def afterAxisLeft : Axis → Nat
  | .x => 8
  | .y => 4
  | .z => 0

/-- The command completes within `n` SENSOR steps, however they are answered, after `polls` polls. One that polls does
so only under a bounded POLL_LIMIT (R194). -/
def Running.endsIn (c : Config) (polls n : Nat) : Running → Prop
  | .readReg _ _ p => readLeft p + 1 ≤ n
  | .writeReg _ _ .start => 2 ≤ n
  | .writeReg _ _ (.done _) => 1 ≤ n
  | .resolveAddr p => resolveLeft p ≤ n
  | .init .start => c.initWrites.length + 5 ≤ n
  | .init (.resolving p) => resolveLeft p + c.initWrites.length ≤ n
  | .init (.wrote _ _ _ rest _) => rest.length + 1 ≤ n
  | .readTemp p => readLeft p + 1 ≤ n
  | .awaitDrdy p => ∃ l, c.pollLimit = some l ∧ awaitLeft l polls p ≤ n
  | .readMotion (.await p) => ∃ l, c.pollLimit = some l ∧ awaitLeft l polls p + 12 ≤ n
  | .readMotion (.low axis _ p) => readLeft p + 3 + afterAxisLeft axis ≤ n
  | .readMotion (.high axis _ _ _ p) => readLeft p + 1 + afterAxisLeft axis ≤ n

/-- The engine is idle, or its command completes within `n` SENSOR steps. -/
def Sensor.endsIn (c : Config) (n : Nat) (e : Sensor) : Prop :=
  match e.ctl with
  | .idle => True
  | .run r => r.endsIn c e.pollN.toNat n

theorem Sensor.endsIn_of_idle {c : Config} {n : Nat} {e : Sensor} (h : e.ctl = .idle) : e.endsIn c n := by
  rw [Sensor.endsIn, h]
  trivial

theorem Sensor.endsIn_of_run {c : Config} {n : Nat} {e : Sensor} {r : Running} (h : e.ctl = .run r) :
    e.endsIn c n ↔ r.endsIn c e.pollN.toNat n := by
  rw [Sensor.endsIn, h]

/-- A command has its complete step, at least, to make (R156). -/
theorem Running.not_endsIn_zero (c : Config) (polls : Nat) (r : Running) : ¬r.endsIn c polls 0 := by
  match r with
  | .readReg _ _ _ | .readTemp _ | .writeReg _ _ .start | .writeReg _ _ (.done _) | .init .start
  | .init (.resolving (.high _)) | .init (.resolving (.low _)) | .init (.wrote _ _ _ _ _)
  | .resolveAddr (.high _) | .resolveAddr (.low _) | .readMotion (.low _ _ _) | .readMotion (.high _ _ _ _ _) =>
    simp [Running.endsIn, resolveLeft]
  | .awaitDrdy _ | .readMotion (.await _) => simp [Running.endsIn, awaitLeft]

/-- With no step left the engine is idle. -/
theorem Sensor.busy_of_endsIn_zero {c : Config} {e : Sensor} (h : e.endsIn c 0) : e.busy = false := by
  cases hctl : e.ctl with
  | idle => exact busy_of_idle hctl
  | run r => exact absurd ((Sensor.endsIn_of_run hctl).1 h) (r.not_endsIn_zero c _)

/-! ## Every SENSOR step is one fewer -/

section
variable {c : Config} {d : BusDraw} {e : Sensor} {k n : Nat}

/-- A step of `resolve`, in a command that has `k` steps to make after it (R180). -/
theorem runResolve_endsIn {at' : ResolvePt → Running} {return' : Addr → Bool → Sensor → Sensor}
    (hat : ∀ p polls, resolveLeft p + k ≤ n → (at' p).endsIn c polls n)
    (hreturn : k ≤ n → ∀ a nf e, (return' a nf e).endsIn c n) {p : ResolvePt} (h : resolveLeft p + k ≤ n + 1) :
    (runResolve c at' return' p d e).endsIn c n := by
  match p with
  | .high .start | .high (.held _) | .low .start | .low (.held _) =>
    refine hat _ _ ?_
    simp only [resolveLeft, readLeft] at h ⊢
    omega
  | .high (.got sent received) =>
    simp only [resolveLeft, readLeft] at h
    unfold runResolve
    dsimp only
    split
    · exact hreturn (by omega) _ _ _
    · exact hat (.low (.held _)) _ (by simp only [resolveLeft, readLeft]; omega)
  | .low (.got sent received) =>
    simp only [resolveLeft, readLeft] at h
    exact hreturn (by omega) _ _ _

/-- R9's upper bound on POLL_LIMIT. -/
theorem Config.pollLimit_le {l : Nat} (hin : c.inRange = true) (hlimit : c.pollLimit = some l) : l ≤ 2 ^ 32 - 1 := by
  obtain ⟨⟨-, -, -, hrange⟩, -⟩ := (Config.inRange_iff c).1 hin
  exact (hrange l hlimit).2

/-- The last poll is seen whatever the counter saturates at: R9 keeps POLL_LIMIT within it (R193). -/
theorem pollsExhausted_countPoll {l : Nat} (hin : c.inRange = true) (hlimit : c.pollLimit = some l) :
    pollsExhausted c (countPoll e) = decide (l ≤ e.pollN.toNat + 1) := by
  have hl := Config.pollLimit_le hin hlimit
  unfold pollsExhausted
  rw [hlimit, countPoll_pollN, BitVec.toNat_ofNat]
  dsimp only
  congr 1
  simp only [eq_iff_iff]
  omega

/-- A step of `await`, in a command that has `k` steps to make after it: an unsuccessful poll that is not the last
starts the next one (R193). -/
theorem runAwait_endsIn {at' : ReadPt → Running} {ready timeout : Sensor → Sensor} {l : Nat} (hin : c.inRange = true)
    (hlimit : c.pollLimit = some l) (hat : ∀ p polls, awaitLeft l polls p + k ≤ n → (at' p).endsIn c polls n)
    (hready : k ≤ n → ∀ e, (ready e).endsIn c n) (htimeout : ∀ e, (timeout e).endsIn c n) {p : ReadPt}
    (h : awaitLeft l e.pollN.toNat p + k ≤ n + 1) : (runAwait c at' ready timeout p d e).endsIn c n := by
  match p with
  | .start | .held _ =>
    refine hat _ _ ?_
    show awaitLeft l e.pollN.toNat _ + k ≤ n
    simp only [awaitLeft, readLeft] at h ⊢
    omega
  | .got sent received =>
    simp only [awaitLeft, readLeft] at h
    unfold runAwait
    dsimp only
    rw [pollsExhausted_countPoll hin hlimit]
    split
    · exact hready (by omega) _
    · split
      · exact htimeout _
      · rename_i hmore
        refine hat (.held _) _ ?_
        show awaitLeft l (BitVec.ofNat 32 (min (e.pollN.toNat + 1) (2 ^ 32 - 1))).toNat _ + k ≤ n
        have hmore : ¬l ≤ e.pollN.toNat + 1 := fun hle => hmore (decide_eq_true hle)
        have hl := Config.pollLimit_le hin hlimit
        simp only [awaitLeft, readLeft, BitVec.toNat_ofNat]
        omega

/-- A pass through INIT's loop: one step for each write still to do and the complete step (R185). -/
theorem initNextWrite_endsIn {writes : List (Byte × Byte)} (h : writes.length ≤ n) (ran : Bool) (a : Addr) (nf : Bool) :
    (initNextWrite ran a nf writes d e).endsIn c n := by
  cases writes with
  | nil => exact Sensor.endsIn_of_idle rfl
  | cons w rest => exact h

/-- A step of INIT (R185). -/
theorem runInit_endsIn {p : InitPt} (h : (Running.init p).endsIn c e.pollN.toNat (n + 1)) :
    (runInit c p d e).endsIn c n := by
  have hresolve : ∀ {p}, resolveLeft p + c.initWrites.length ≤ n + 1 →
      (runResolve c (fun p => .init (.resolving p)) (fun a nf e => initNextWrite true a nf c.initWrites d e) p d
        e).endsIn c n :=
    runResolve_endsIn (fun _ _ h => h) fun hk a nf _ => initNextWrite_endsIn hk true a nf
  match p with
  | .start =>
    simp only [Running.endsIn] at h
    simp only [runInit]
    split
    · exact initNextWrite_endsIn (by omega) false e.addr false
    · refine hresolve ?_
      simp only [resolveLeft, readLeft]
      omega
  | .resolving p => exact hresolve h
  | .wrote ran a nf rest sent => exact initNextWrite_endsIn (Nat.le_of_succ_le_succ h) ran a nf

/-- A step of READ_MOTION: `await`, then four transactions for each axis (R197, R198). -/
theorem runReadMotion_endsIn {p : MotionPt} (hin : c.inRange = true)
    (h : (Running.readMotion p).endsIn c e.pollN.toNat (n + 1)) : (runReadMotion c p d e).endsIn c n := by
  match p with
  | .await p =>
    obtain ⟨l, hlimit, hleft⟩ := h
    exact runAwait_endsIn hin hlimit (at' := fun p => .readMotion (.await p)) (fun _ _ h => ⟨l, hlimit, h⟩)
      (fun hk _ => hk) (fun _ => Sensor.endsIn_of_idle rfl) hleft
  | .low axis new .start | .low axis new (.held _) | .low axis new (.got _ _)
  | .high axis okL lo new .start | .high axis okL lo new (.held _) =>
    simp only [Running.endsIn, readLeft] at h
    show readLeft _ + _ + afterAxisLeft axis ≤ n
    simp only [readLeft]
    omega
  | .high .x okL lo new (.got _ _) | .high .y okL lo new (.got _ _) => exact Nat.le_of_succ_le_succ h
  | .high .z okL lo new (.got _ _) => exact Sensor.endsIn_of_idle rfl

/-- A SENSOR step leaves one fewer to make, whatever its answer. -/
theorem Sensor.endsIn.after_stepSensor (h : e.endsIn c n) (hin : c.inRange = true) (d : BusDraw) :
    (stepSensor c d e).endsIn c (n - 1) := by
  cases hctl : e.ctl with
  | idle =>
    rw [stepSensor_idle (busy_of_idle hctl)]
    exact Sensor.endsIn_of_idle hctl
  | run r =>
    rw [Sensor.endsIn_of_run hctl] at h
    obtain - | n := n
    · exact absurd h (r.not_endsIn_zero c _)
    rw [stepSensor, hctl, Nat.add_sub_cancel]
    match r with
    | .readReg _ _ .start | .readReg _ _ (.held _) | .readTemp .start | .readTemp (.held _)
    | .writeReg _ _ .start => exact Nat.le_of_succ_le_succ h
    | .readReg _ _ (.got _ _) | .readTemp (.got _ _) | .writeReg _ _ (.done _) => exact Sensor.endsIn_of_idle rfl
    | .resolveAddr p =>
      exact runResolve_endsIn (k := 0) (fun _ _ h => h) (fun _ _ _ _ => Sensor.endsIn_of_idle rfl) h
    | .init p => exact runInit_endsIn h
    | .awaitDrdy p =>
      obtain ⟨l, hlimit, hleft⟩ := h
      exact runAwait_endsIn (at' := .awaitDrdy) (k := 0) hin hlimit (fun _ _ h => ⟨l, hlimit, h⟩)
        (fun _ _ => Sensor.endsIn_of_idle rfl) (fun _ => Sensor.endsIn_of_idle rfl) hleft
    | .readMotion p => exact runReadMotion_endsIn hin h

end

/-! ## The command HOST issues -/

/-- A write to S_CMD while no command runs: what it starts, if it starts anything, begins with no poll made (R155). -/
theorem issueSensor_endsIn {c : Config} {n : Nat} {code : Option ResultCode} {start : Sensor → Sensor} {s : State}
    (hb : s.sensor.busy = false) (hstart : ∀ e : Sensor, e.pollN = 0 → (start e).endsIn c n) :
    (issueSensor code start s).sensor.endsIn c n := by
  have hidle := not_busy_iff.1 hb
  cases code with
  | none =>
    rw [issueSensor_accept start hb]
    exact hstart _ rfl
  | some code =>
    apply Sensor.endsIn_of_idle
    by_cases hfatal : code = .fatal
    · rw [hfatal, issueSensor_fatal start hb]
      exact hidle
    · rw [issueSensor_reject start hb hfatal]
      exact hidle

/-- A command issued while none runs completes within this many SENSOR steps: READ_MOTION needs most, `2 * l + 13`. -/
theorem exec_endsIn {i : Instr} {s t : State} {l : Nat} (hb : s.sensor.busy = false)
    (hpolls : s.config.pollLimit = some l ∨ i ≠ .awaitDrdy ∧ i ≠ .readMotion) (h : exec i s = .next t) :
    t.sensor.endsIn s.config (2 * l + s.config.initWrites.length + 15) := by
  by_cases hi : i = .startLed
  · subst hi
    obtain ⟨hsensor, -⟩ := execStartLed_frame s t h
    exact hsensor ▸ Sensor.endsIn_of_idle (not_busy_iff.1 hb)
  · cases i with
    | startLed => exact absurd rfl hi
    | readReg | resolveAddr | readTemp | writeReg | init =>
      cases h
      refine issueSensor_endsIn hb fun e _ => ?_
      simp only [beginRun, stage, Sensor.endsIn, Running.endsIn, resolveLeft, readLeft]
      omega
    | awaitDrdy | readMotion =>
      cases h
      have hlimit : s.config.pollLimit = some l := by simpa using hpolls
      refine issueSensor_endsIn hb fun e he => ⟨l, hlimit, ?_⟩
      simp only [beginRun, he, awaitLeft, readLeft]
      omega

/-! ## The run -/

/-- A SENSOR turn is one of the turns promised (R151). -/
theorem busAnswers_of_sensor {d : BusDraw} {n : Nat} {rest : List AgentStep} (h : busAnswers n (.sensor d :: rest)) :
    busAnswers (n - 1) rest :=
  Nat.sub_le_of_le_add h

/-- No other agent's turn is (R151). -/
theorem busAnswers_of_other {a : AgentStep} {n : Nat} {rest : List AgentStep} (ha : ∀ d, a ≠ .sensor d)
    (h : busAnswers n (a :: rest)) : busAnswers n rest := by
  cases a with
  | sensor d => exact absurd rfl (ha d)
  | _ => exact h

/-- HOST has done its last access, and the turns to come have enough of SENSOR's for the running command. -/
structure Finishing (s : State) : Prop where
  configOk : s.config.inRange = true
  programDone : s.program = []
  noError : noHostError s
  answered : ∃ n, s.sensor.endsIn s.config n ∧ busAnswers n s.schedule

/-- A host that has done its last access takes no step (R272). -/
theorem hostStep_of_done {s : State} (h : s.program = []) (d : Byte) : hostStep d s = .next s := by
  rw [hostStep, h]

/-- Whether a run finishes does not depend on the LED engine, the diagnostic port and what HOST has read. -/
theorem Finishing.congr {s t : State} (h : Finishing s) (hconfig : t.config = s.config) (hsensor : t.sensor = s.sensor)
    (herrors : t.hostErrors = s.hostErrors) (hprogram : t.program = s.program) (hschedule : t.schedule = s.schedule) :
    Finishing t := by
  obtain ⟨hin, hprog, herror, n, hends, hbus⟩ := h
  exact ⟨hconfig ▸ hin, hprogram.trans hprog, herrors.trans herror, n, by rwa [hsensor, hconfig], hschedule ▸ hbus⟩

/-- Every agent's turn keeps a finishing run finishing: SENSOR's is one fewer for the command, a reset ends it, and the
others do not touch it. -/
theorem Finishing.after_step {s : State} {a : AgentStep} {rest : List AgentStep} (h : Finishing s)
    (hs : s.schedule = a :: rest) : ∃ t, step s = .next t ∧ t.schedule = rest ∧ Finishing t := by
  obtain ⟨hin, hprog, herror, n, hends, hbus⟩ := h
  rw [hs] at hbus
  have hkept (ha : ∀ d, a ≠ .sensor d) : Finishing { s with schedule := rest } :=
    ⟨hin, hprog, herror, n, hends, busAnswers_of_other ha hbus⟩
  rw [step_eq_agentStep hin hs]
  cases a with
  | host d => exact ⟨_, hostStep_of_done (s := { s with schedule := rest }) hprog d, rfl, hkept fun _ => nofun⟩
  | sensor d =>
    exact ⟨_, rfl, rfl, hin, hprog, herror, n - 1, hends.after_stepSensor hin d, busAnswers_of_sensor hbus⟩
  | btn level =>
    obtain ⟨hconfig, hsensor, herrors, -, hprogram, hschedule, -⟩ := btnStep_frame level { s with schedule := rest }
    exact ⟨_, rfl, hschedule, (hkept fun _ => nofun).congr hconfig hsensor herrors hprogram hschedule⟩
  | blink =>
    obtain ⟨hconfig, hsensor, herrors, -, hprogram, hschedule, -⟩ := blinkTick_frame { s with schedule := rest }
    exact ⟨_, rfl, hschedule, (hkept fun _ => nofun).congr hconfig hsensor herrors hprogram hschedule⟩
  | reset tx rx st =>
    exact ⟨_, rfl, rfl, hin, hprog, herror, 0, Sensor.endsIn_of_idle rfl, Nat.zero_le _⟩

/-- A finishing run whose turns are all taken is over: no SENSOR turn was promised beyond them. -/
theorem Finishing.runOver_of_schedule_nil {s : State} (h : Finishing s) (hs : s.schedule = []) : runOver s := by
  obtain ⟨-, hprog, herror, n, hends, hbus⟩ := h
  rw [hs] at hbus
  obtain rfl : n = 0 := Nat.le_zero.1 hbus
  exact ⟨hprog, Sensor.busy_of_endsIn_zero hends, herror⟩

/-- A finishing run is over when its turns are taken (R272). -/
theorem Finishing.run_over {rest : List AgentStep} {s : State} (h : Finishing s) (hs : s.schedule = rest) :
    ∃ t, Host.Core.run core rest.length s = .next t ∧ runOver t := by
  induction rest generalizing s with
  | nil => exact ⟨s, rfl, h.runOver_of_schedule_nil hs⟩
  | cons a rest ih =>
    obtain ⟨t, ht, hrest, hfinishing⟩ := h.after_step hs
    rw [List.length_cons, run_succ_of_step (M := core) ht]
    exact ih hfinishing hrest

/-- A command issued as HOST's last access, while none runs, leaves a finishing run. -/
theorem finishing_of_exec {i : Instr} {s t : State} {l : Nat} (hin : s.config.inRange = true) (herror : noHostError s)
    (hb : s.sensor.busy = false) (hprog : s.program = [])
    (hpolls : s.config.pollLimit = some l ∨ i ≠ .awaitDrdy ∧ i ≠ .readMotion)
    (hbus : busAnswers (2 * l + s.config.initWrites.length + 15) s.schedule) (h : exec i s = .next t) :
    Finishing t := by
  obtain ⟨hconfig, herrors, -, hprogram, hschedule⟩ := exec_frame i s t h
  have hends := exec_endsIn hb hpolls h
  exact ⟨hconfig ▸ hin, hprogram.trans hprog, herrors.trans herror, _, by rwa [hconfig], by rwa [hschedule]⟩

/-- Settles O59: HOST's turn issues the command, which leaves a finishing run. -/
theorem commandRunsEnd : Obligations.CommandRunsEnd := by
  intro s i d rest l hinv herror hb hprog hsched hpolls hbus
  obtain ⟨t, ht⟩ := exec_next i { s with program := [], schedule := rest }
  have hstep : step s = .next t :=
    calc step s = hostStep d { s with schedule := rest } := step_eq_agentStep hinv.configOk hsched
      _ = exec i { s with program := [], schedule := rest } :=
        commandSyntaxIssuesTheCommand { s with schedule := rest } i [] d hprog
      _ = .next t := ht
  have hfinishing : Finishing t :=
    finishing_of_exec (s := { s with program := [], schedule := rest }) hinv.configOk herror hb rfl hpolls hbus ht
  obtain ⟨-, -, -, -, hschedule⟩ := exec_frame i _ t ht
  rw [run_succ_of_step (M := core) hstep]
  exact hfinishing.run_over hschedule

end Sys2Proof.Machine
end
